-- ==== Sys2Proof/Word.lean ====
section
/-! DEFINITION. The widths the spec gives its values (00_scope.md R10, R12): every value is an unsigned
bit vector of a stated width, bit 0 the least significant. -/

namespace Sys2Proof

/-- One byte: a bus data byte, a register number, a byte operand (R10, R76). -/
abbrev Byte := BitVec 8

/-- One 16-bit half: the mask or the value of a masked write, the cell of a Masked register (R10, R33). -/
abbrev Half := BitVec 16

/-- One 32-bit word: an MMIO access, an MMIO address, a descriptor, a command word (R10, R75). -/
abbrev Word := BitVec 32

/-- One command value `K = {W2, W1, W0}`, 96 bits (R77). -/
abbrev Command := BitVec 96

end Sys2Proof
end

