-- ==== Sys2Proof/Syntax.lean ====
section
/-! DEFINITION. The commands of the plan, one constructor per row of spec/opcode_table.json, with the operands
that 30_encoding.md R83 to R89 give each. -/

namespace Sys2Proof

/-- A voltage level (R85): code 0 is 1.8 V, code 1 is 3.3 V. -/
inductive VLevel where
  | v1_8
  | v3_3
deriving DecidableEq, Repr, Inhabited

/-- A pin direction (R89): code 0 is In, code 1 is Out. -/
inductive PinDir where
  | input
  | output
deriving DecidableEq, Repr, Inhabited

/-- A pin level (R89): code 0 is Low, code 1 is High. -/
inductive PinLevel where
  | low
  | high
deriving DecidableEq, Repr, Inhabited

/-- A lane mode code (R88): 0 USB3, 1 PCIeGen2, 2 PCIeGen3x2; code 3 is reserved. -/
abbrev LaneMode := BitVec 2

def LaneMode.usb3 : LaneMode := 0
def LaneMode.pcieGen2 : LaneMode := 1
def LaneMode.pcieGen3x2 : LaneMode := 2

/-- The command set of the plan ROM (R4, R79). -/
inductive Instr where
  /-- MWR, masked register write (R101). -/
  | mwr (addr : Word) (mask value : Half)
  /-- WR32, full-width register write (R104). -/
  | wr32 (addr data : Word)
  /-- DOMSET, set a voltage domain's level (R150). -/
  | domset (dom : Byte) (lvl : VLevel)
  /-- BUSRD, two-wire register read into capture register `idx` (R130). -/
  | busrd (dev : BitVec 7) (reg : Byte) (idx : BitVec 1)
  /-- BUSWR, two-wire register write (R133). -/
  | buswr (dev : BitVec 7) (reg data : Byte)
  /-- IDCHK, identification check (R137). -/
  | idchk (expected : BitVec 12)
  /-- LANESEL, SerDes lane mode select (R146). -/
  | lanesel (lane : Byte) (mode : LaneMode)
  /-- PINGRP, apply a pin group (R116). -/
  | pingrp (g : Byte)
  /-- GPIODIR, set a pin's direction (R122). -/
  | gpiodir (bank pin : Byte) (dir : PinDir)
  /-- GPIOWR, write a pin's level (R124). -/
  | gpiowr (bank pin : Byte) (level : PinLevel)
  /-- END, terminate with success (R161). -/
  | endPlan
deriving DecidableEq, Repr

end Sys2Proof
end

