-- ==== Sys2Proof/Config.lean ====
section
/-! DEFINITION. The OPEN parameters of 00_scope.md R10 as one record (held in State, so that a statement about every
state is a statement about every value of them), the environment's vocabulary (primitive calls, answers,
events), the constants the source fixes, and the free values: constants with no body. -/

namespace Sys2Proof

/-! ## Parameters (R10) -/

/-- The kind of an MMIO address (P_REGKIND; 20_memory.md R55 to R57). -/
inductive RegKind where
  | masked
  | plain
  | unmodelled
deriving DecidableEq, Repr, Inhabited

/-- The operands of one board masked write: P_PLL, P_IOMUX (R10). -/
structure MaskedConst where
  addr : Word
  mask : Half
  value : Half
deriving DecidableEq, Repr

/-- One word of a read-only table as it is stored: its four bytes, `b0` at the lowest address (20_memory.md R53). -/
structure StoredWord where
  b0 : Byte
  b1 : Byte
  b2 : Byte
  b3 : Byte
deriving DecidableEq, Repr

/-- The parameters of R10 that the source leaves OPEN. Log 1 gives their values at `State.reset`. -/
structure Params where
  /-- P_BUS, the handle of the one two-wire controller. -/
  bus : Nat
  /-- P_PMIC_ADDR, the regulator's fixed bus address. -/
  pmicAddr : BitVec 7
  /-- P_TRIM[0..8]: register number and value. -/
  trim : Vector (Byte × Byte) 9
  /-- P_ENABLE[0..2]: register number and all-on mask. -/
  enable : Vector (Byte × Byte) 3
  /-- P_SWCFG[0..1]: register number and value. -/
  swcfg : Vector (Byte × Byte) 2
  /-- P_DOMAINS[0..6]: domain id and level. -/
  domains : Vector (Byte × VLevel) 7
  /-- P_CLKGATE[0..1]: address and 32-bit value. -/
  clkGate : Vector (Word × Word) 2
  /-- P_PLL. -/
  pll : MaskedConst
  /-- P_IOMUX. -/
  iomux : MaskedConst
  /-- P_REGKIND: the listed addresses with their kinds; an unlisted address is Unmodelled. -/
  regKind : List (Nat × RegKind)
  /-- P_PCIE_LANE_MODE. -/
  pcieLaneMode : LaneMode
  /-- P_PIN_GROUPS: group `g` is entry `g`, its descriptor words as stored (R53); P_NUM_GROUPS is the length (log 17). -/
  pinGroups : List (List StoredWord)
  /-- P_NUM_BANKS. -/
  numBanks : Nat
  /-- P_PINS_PER_BANK. -/
  pinsPerBank : Nat
  /-- P_NUM_FUNCS. -/
  numFuncs : Nat
  /-- P_DRIVE_LEVELS, not counting "default". -/
  driveLevels : Nat
  /-- P_CLKREQ_A: bank and pin. -/
  clkReqA : Byte × Byte
  /-- P_CLKREQ_B: bank and pin. -/
  clkReqB : Byte × Byte
  /-- P_NUM_LANES. -/
  numLanes : Nat
  /-- P_BUS_TIMEOUT, the bus primitive's bounded timeout (60_exceptions.md R190), in a unit the spec does not give. No step
  reads it: a timeout is an `Err` answer (10_state.md R41; log 22). -/
  busTimeout : Nat
  /-- P_GROUP_LANE: the groups with a lane their functions route to; an unlisted group routes to none. -/
  groupLane : List (Byte × List Byte)
  /-- PREM_I2C_PINS: the two-wire pins were configured before start (R45, R205). -/
  premI2cPins : Bool
deriving DecidableEq, Repr

/-! ## The constants the source fixes (R10) -/

/-- PMIC_ID_HI_REG (R135). -/
def pmicIdHiReg : Byte := 0xED
/-- PMIC_ID_LO_REG (R135). -/
def pmicIdLoReg : Byte := 0xEE
/-- PMIC_EXPECTED_NAME (R10, R87). -/
def pmicExpectedName : BitVec 12 := 0x809

/-! ## Pins (10_state.md R35) -/

/-- A pull mode (R35, R91). -/
inductive Pull where
  | none
  | pullUp
  | pullDown
deriving DecidableEq, Repr, Inhabited

/-- The state of one pin (R35). -/
structure Pin where
  func : BitVec 4
  pull : Pull
  drive : BitVec 4
  dir : PinDir
  level : PinLevel
deriving DecidableEq, Repr

/-! ## The environment's vocabulary -/

/-- A primitive call that the environment oracle answers (20_memory.md R66). -/
inductive Call where
  | busRead (bus : Nat) (dev : BitVec 7) (reg : Byte)
  | busWrite (bus : Nat) (dev : BitVec 7) (reg data : Byte)
  | laneSelect (lane : Byte) (mode : LaneMode)
  | domainSet (dom : Byte) (lvl : VLevel)
deriving DecidableEq, Repr

/-- An answer (R66). `ok byte`: Ok, with the data byte a BusRead returns (no other call reads `byte`). `err left`: Err,
and `left` is the fresh draw that the addressed entry holds afterwards (10_state.md R38; log 4). -/
inductive Answer where
  | ok (byte : Byte)
  | err (left : Byte)
deriving DecidableEq, Repr, Inhabited

/-- `Ok` or `Err`, as the log records it (10_state.md R39). -/
inductive Resp where
  | ok
  | err
deriving DecidableEq, Repr

/-- `Ok(byte)` or `Err`, as the log records a bus read (R39). -/
inductive ReadResp where
  | ok (byte : Byte)
  | err
deriving DecidableEq, Repr

/-- The event kinds of 10_state.md R39. -/
inductive Event where
  | domSet (dom : Byte) (lvl : VLevel) (resp : Resp)
  | busRd (dev : BitVec 7) (reg : Byte) (resp : ReadResp)
  | busWr (dev : BitVec 7) (reg data : Byte) (resp : Resp)
  | mmioWr (addr word : Word)
  | laneSel (lane : Byte) (mode : LaneMode) (resp : Resp)
  | pinGroup (g : Byte) (descriptors : List Word)
  | gpioDir (bank pin : Byte) (dir : PinDir)
  | gpioWr (bank pin : Byte) (level : PinLevel)
deriving DecidableEq, Repr

/-- Which oracle answers a call once `State.answers` is empty (R66): the free one, or the reference backend. -/
inductive Backend where
  | free
  | reference
deriving DecidableEq, Repr

/-- What the external hardware holds after its own reset: the draws P_INIT_MMIO, P_INIT_PMIC, P_INIT_PIN, P_INIT_LANE and
P_INIT_DOMAIN (R10, R200), as (key, value) pairs keyed as the mirrors of State are, the first entry for a key
counting and an unlisted key drawn as its mirror's unlisted value (log 29). -/
structure ExternalDraw where
  mem : List (Nat × Byte)
  pmic : List (Nat × Byte)
  pins : List (Nat × Pin)
  laneMode : List (Nat × LaneMode)
  domLevel : List (Nat × VLevel)
deriving DecidableEq, Repr

/-- What the host does before the next step (60_exceptions.md R195; log 9). -/
inductive HostInput where
  /-- Nothing: the block takes its own step. -/
  | proceed
  /-- `start(ctx)`; `ctx` is opaque and not read (R11, R155). -/
  | start (ctx : Nat)
  /-- Block reset (R196, R202). -/
  | reset
  /-- Launch: a block reset together with the external hardware at its own reset (R202; log 29). -/
  | launch (draw : ExternalDraw)
  /-- A write to the read-only STATUS word (R29). -/
  | writeStatus (value : Word)
deriving DecidableEq, Repr

/-! ## Free values: no body, so no proof can rest on what they are -/

/-- The environment oracle (R44, R66): a free answer to a call, which may depend on the log so far. The number counts the
calls answered since `State.reset`, so that equal logs (after a block reset) need not mean equal answers.
Used only where `State.answers` lists none (log 3). -/
opaque Config.oracle : Nat → List Event → Call → Answer

/-- The byte the reference backend returns for a device that is not the regulator, which R66 does not state (log 15). -/
opaque Config.otherDeviceByte : Nat → BitVec 7 → Byte → Byte

/-- P_HI_READ (20_memory.md R58): bits 31:16 of a host's read-back of a Masked register (log 14). -/
opaque Config.hiRead : List Event → Word → Half

/-! ## What an unlisted entry of a mirror reads as (log 5) -/

/-- A byte nothing has written: MMIO cell, PMIC register or plan ROM byte. DESIGN CHOICE, unsafe (logs 2 and 5): the spec's
P_INIT_MMIO and P_INIT_PMIC are unspecified draws. -/
def Config.unlistedByte : Byte := 0

/-- A pin nothing has written. DESIGN CHOICE, unsafe (log 5): P_INIT_PIN is an unspecified draw. -/
def Config.unlistedPin : Pin := ⟨0, .none, 0, .input, .low⟩

/-- The mode of a lane never selected. DESIGN CHOICE, unsafe (log 5): P_INIT_LANE is an unspecified draw. -/
def Config.unlistedMode : LaneMode := 0

/-- The level of a domain never set. DESIGN CHOICE, unsafe (log 5): P_INIT_DOMAIN is an unspecified draw. -/
def Config.unlistedLevel : VLevel := .v1_8

/-- The parameters at `State.reset`. DESIGN CHOICE, unsafe (log 1): the spec's illustrative values, those of program P6 of
95_test_vectors.md and, for the parameters P6 does not name, T0's. No board's values are known. -/
def Config.illustrative : Params where
  bus := 0
  pmicAddr := 0x20
  trim := #v[(0x10, 0xA0), (0x11, 0xA1), (0x12, 0xA2), (0x13, 0xA3), (0x14, 0xA4), (0x15, 0xA5), (0x16, 0xA6),
    (0x17, 0xA7), (0x18, 0xA8)]
  enable := #v[(0x20, 0xFF), (0x21, 0x0F), (0x22, 0x03)]
  swcfg := #v[(0x2E, 0x3C), (0x2F, 0x5A)]
  domains := #v[(0, .v3_3), (1, .v3_3), (2, .v1_8), (3, .v3_3), (4, .v1_8), (5, .v3_3), (6, .v3_3)]
  clkGate := #v[(0x00010000, 0xFFFFFFFF), (0x00010004, 0x0000F0F0)]
  pll := ⟨0x00020000, 0x0FFF, 0x0123⟩
  iomux := ⟨0x00030000, 0x0303, 0x0202⟩
  regKind := [(0x00010000, .plain), (0x00010004, .plain), (0x00020000, .masked), (0x00030000, .masked)]
  pcieLaneMode := LaneMode.pcieGen2
  pinGroups := [[⟨0x03, 0x01, 0x41, 0x00⟩],
    [⟨0x00, 0x02, 0x42, 0x00⟩, ⟨0x01, 0x02, 0x42, 0x00⟩],
    [⟨0x02, 0x03, 0x82, 0x00⟩],
    [⟨0x00, 0x03, 0x11, 0x00⟩, ⟨0x01, 0x03, 0x11, 0x00⟩],
    []]
  numBanks := 5
  pinsPerBank := 32
  numFuncs := 8
  driveLevels := 6
  clkReqA := (3, 4)
  clkReqB := (3, 5)
  numLanes := 3
  busTimeout := 0
  groupLane := [(2, [2]), (3, [2])]
  premI2cPins := true

end Sys2Proof
end

