-- ==== Sys2Proof/Machine/BoardRom.lean ====
section
/-! DEFINITION. What the plan ROM holds at `State.reset`: the board plan of 44_coordinator.md R170 (00_scope.md R10: P_PLAN), with
the operands that `Config.illustrative` gives it (logs 1 and 2), as bytes in the ROM's canonical form: one line per
command, bytes that are 0 unlisted. It equals `boardPlan` laid into an empty ROM (Tests/Slice0.lean proves it). -/

namespace Sys2Proof.Machine

/-- Commands 0 to 6: the seven DOMSETs. -/
def boardRomDomains : List Host.Cell :=
  [(0, 0x03), (2, 0x01),
   (12, 0x03), (13, 0x01), (14, 0x01),
   (24, 0x03), (25, 0x02),
   (36, 0x03), (37, 0x03), (38, 0x01),
   (48, 0x03), (49, 0x04),
   (60, 0x03), (61, 0x05), (62, 0x01),
   (72, 0x03), (73, 0x06), (74, 0x01)]

/-- Commands 7 to 9: identify. -/
def boardRomIdentify : List Host.Cell :=
  [(84, 0x04), (85, 0x20), (86, 0xED),
   (96, 0x04), (97, 0x20), (98, 0xEE), (99, 0x01),
   (108, 0x06), (112, 0x09), (113, 0x08)]

/-- Commands 10 to 18: the nine trim writes. -/
def boardRomTrim : List Host.Cell :=
  [(120, 0x05), (121, 0x20), (122, 0x10), (123, 0xA0),
   (132, 0x05), (133, 0x20), (134, 0x11), (135, 0xA1),
   (144, 0x05), (145, 0x20), (146, 0x12), (147, 0xA2),
   (156, 0x05), (157, 0x20), (158, 0x13), (159, 0xA3),
   (168, 0x05), (169, 0x20), (170, 0x14), (171, 0xA4),
   (180, 0x05), (181, 0x20), (182, 0x15), (183, 0xA5),
   (192, 0x05), (193, 0x20), (194, 0x16), (195, 0xA6),
   (204, 0x05), (205, 0x20), (206, 0x17), (207, 0xA7),
   (216, 0x05), (217, 0x20), (218, 0x18), (219, 0xA8)]

/-- Commands 19 to 23: the three enable writes and the two config writes. -/
def boardRomEnable : List Host.Cell :=
  [(228, 0x05), (229, 0x20), (230, 0x20), (231, 0xFF),
   (240, 0x05), (241, 0x20), (242, 0x21), (243, 0x0F),
   (252, 0x05), (253, 0x20), (254, 0x22), (255, 0x03),
   (264, 0x05), (265, 0x20), (266, 0x2E), (267, 0x3C),
   (276, 0x05), (277, 0x20), (278, 0x2F), (279, 0x5A)]

/-- Commands 24 to 26: the two clock gates and the PLL. -/
def boardRomClocks : List Host.Cell :=
  [(288, 0x02), (294, 0x01), (296, 0xFF), (297, 0xFF), (298, 0xFF), (299, 0xFF),
   (300, 0x02), (304, 0x04), (306, 0x01), (308, 0xF0), (309, 0xF0),
   (312, 0x01), (318, 0x02), (320, 0x23), (321, 0x01), (322, 0xFF), (323, 0x0F)]

/-- Commands 27 to 30: two lanes and two pin groups. -/
def boardRomPins : List Host.Cell :=
  [(324, 0x07),
   (336, 0x07), (337, 0x01),
   (348, 0x08),
   (360, 0x08), (361, 0x01)]

/-- Commands 31 to 39: PCIe bring-up and END. -/
def boardRomPcie : List Host.Cell :=
  [(372, 0x07), (373, 0x02), (374, 0x01),
   (384, 0x08), (385, 0x03),
   (396, 0x08), (397, 0x02),
   (408, 0x09), (409, 0x03), (410, 0x04), (411, 0x01),
   (420, 0x0A), (421, 0x03), (422, 0x04), (423, 0x01),
   (432, 0x09), (433, 0x03), (434, 0x05), (435, 0x01),
   (444, 0x0A), (445, 0x03), (446, 0x05), (447, 0x01),
   (456, 0x01), (462, 0x03), (464, 0x02), (465, 0x02), (466, 0x03), (467, 0x03),
   (468, 0x0F)]

/-- The whole ROM. -/
def boardRom : List Host.Cell :=
  boardRomDomains ++ boardRomIdentify ++ boardRomTrim ++ boardRomEnable
    ++ boardRomClocks ++ boardRomPins ++ boardRomPcie

end Sys2Proof.Machine
end

