-- ==== Sys2Proof/Machine/State.lean ====
section
/-! DEFINITION. The machine's state (10_state.md), its reset value (70_reset_and_hazards.md R200), and the reasons a step
of the model stops. Every fault of the SPEC is a next state (DoneFail with its cause: R158), so no meaning of
an instruction uses the reasons below. -/

namespace Sys2Proof.Machine

/-- The coordinator's state (R25). -/
inductive CoordState where
  | idle
  | run
  | doneOk
  | doneFail
deriving DecidableEq, Repr

/-- The fault causes of 60_exceptions.md R177. -/
inductive Cause where
  | none
  | busError
  | idMismatch
  | domainError
  | laneError
  | illegalCommand
  | misaligned
  | planOverrun
  | unwrittenCapture
  | laneReselect
  | domainReset
deriving DecidableEq, Repr

/-- The named admission checks of 70_reset_and_hazards.md R207 to R216. -/
inductive Check where
  | laneBeforePins
  | regulatorOrder
  | railsBeforeClocks
  | gpioOrder
  | identifyFirst
  | once
  | mwrTarget
  | idReadonly
  | wellformed
  | busPins
deriving DecidableEq, Repr

/-- Byte memory: (address, byte) pairs in one canonical form, addresses strictly rising and no entry equal to what an
unlisted address reads as (`Memory.wf` in Machine/Ops.lean). -/
abbrev Memory := List Host.Cell

/-- Everything the spec gives the machine, as plain data. -/
structure State where
  -- block registers (10_state.md, section 1)
  /-- R25. -/
  st : CoordState
  /-- R23: the index of the command being executed. -/
  pc : Byte
  /-- R26: a cause code of R177. -/
  cause : BitVec 4
  /-- R21: `cap[0]`. -/
  cap0 : Byte
  /-- R21: `cap[1]`. -/
  cap1 : Byte
  /-- R21: `capValid[0]`. -/
  capValid0 : Bool
  /-- R21: `capValid[1]`. -/
  capValid1 : Bool
  /-- R22. -/
  chipName : BitVec 12
  /-- R22. -/
  chipVer : BitVec 4
  /-- R31: one bit per lane. -/
  laneSel : BitVec 256
  /-- R32: one bit per domain. -/
  domSet : BitVec 256
  -- the mirror of the external hardware (10_state.md, section 4)
  /-- R33: the MMIO cells, a Masked register's 16 bits in two bytes, a Plain register's 32 in four, low byte first. -/
  mem : Memory
  /-- R34: the regulator's registers by number. -/
  pmic : Memory
  /-- R35: the pins, keyed by `256 * bank + pin`. -/
  pins : List (Nat × Pin)
  /-- R36: the mode code last given to a lane. -/
  laneMode : List (Nat × LaneMode)
  /-- R37: the level last given to a domain. -/
  domLevel : List (Nat × VLevel)
  /-- R39: the event log, oldest first. -/
  log : List Event
  -- configuration (R42: no command writes it)
  /-- R51, R53: the plan ROM's bytes. -/
  planRom : Memory
  /-- P_PLAN_LEN (R10, R23). -/
  planLen : Byte
  /-- The OPEN parameters (R10). -/
  cfg : Params
  -- the model's own fields: the environment's choices as data (logs 3 and 9)
  /-- The oracle's next answers, oldest first (R66; log 3). -/
  answers : List Answer
  /-- Which oracle answers when `answers` is empty (R66; log 3). -/
  backend : Backend
  /-- How many calls the oracle has answered (log 3). -/
  calls : Nat
  /-- The host's inputs to come, oldest first (R195; log 9). -/
  host : List HostInput
  /-- No run has ended or been abandoned since the last launch (70_reset_and_hazards.md R222; log 27). -/
  launched : Bool
deriving DecidableEq, Repr

/-- Why the machine has no step. No meaning of an instruction raises one. -/
inductive Fault where
  /-- Raised by the coordinator's step in Idle with no start input (R155: only `start` leaves Idle). Safe: no run is lost,
  since a start is an input of the schedule. -/
  | notStarted
  /-- Raised by the coordinator's step in DoneOk and DoneFail, where "no step is enabled" (R160). Safe: the spec gives no
  step either. -/
  | runEnded
deriving DecidableEq, Repr

/-- What the machine turns away. No meaning of an instruction answers one. -/
inductive Refusal where
  /-- Answered by an arm of `exec` whose instruction has no meaning yet; no arm is left so. Safe. -/
  | notModelled (mnemonic : String)
  /-- Answered to a `start` input in any state but Idle (R156: "it is refused, and the state does not change"). Safe. -/
  | startNotIdle
  /-- Answered to a `start` input in Idle where a run has come and gone since the last launch (70_reset_and_hazards.md R222: "A
  second run without an intervening launch is out of scope, and is refused"). Safe. -/
  | secondRun
  /-- Answered to a host's write to STATUS (R29: "A host write to STATUS does not exist in this spec; it is refused"). Safe. -/
  | statusReadOnly
  /-- Answered by the launch of a run whose plan fails an admission check, named with the failing pc (R206), and by the
  loading of a plan longer than 255 commands (R215). Safe. -/
  | notAdmitted (check : Check) (pc : Nat)
deriving DecidableEq, Repr

/-- The machine right after reset (70_reset_and_hazards.md R200). The spec states the values from `st` to `log` but for
`cap0` and `cap1` (log 6) and the mirror (log 5), and that the plan ROM holds the board plan (00_scope.md R10, R170);
log 1 names the parameters' values, and with them the ROM's operands (log 2), and logs 3, 9 and 27 the model's own
fields. -/
def State.reset : State where
  st := .idle
  pc := 0
  cause := 0
  cap0 := 0
  cap1 := 0
  capValid0 := false
  capValid1 := false
  chipName := 0
  chipVer := 0
  laneSel := 0
  domSet := 0
  mem := []
  pmic := []
  pins := []
  laneMode := []
  domLevel := []
  log := []
  planRom := boardRom
  planLen := 40
  cfg := Config.illustrative
  answers := []
  backend := .free
  calls := 0
  host := []
  launched := true

end Sys2Proof.Machine
end

