-- ==== Sys2Proof/Machine/Flags.lean ====
section
/-! DEFINITION. The block's outputs: the result flags `done` and `ok` (R27) and the STATUS word (R29). The block has no other
flag (R28). -/

namespace Sys2Proof.Machine

/-- R25: the 2-bit code of a coordinator state. -/
def CoordState.code : CoordState → BitVec 2
  | .idle => 0
  | .run => 1
  | .doneOk => 2
  | .doneFail => 3

/-- R177: the 4-bit code of a cause. -/
def Cause.code : Cause → BitVec 4
  | .none => 0
  | .busError => 1
  | .idMismatch => 2
  | .domainError => 3
  | .laneError => 4
  | .illegalCommand => 5
  | .misaligned => 6
  | .planOverrun => 7
  | .unwrittenCapture => 8
  | .laneReselect => 9
  | .domainReset => 10

/-- R27: `done`. -/
def State.done (s : State) : Bool := s.st == .doneOk || s.st == .doneFail

/-- R27: `ok`. -/
def State.ok (s : State) : Bool := s.st == .doneOk

/-- R29: the STATUS word, {CHIPVER, CHIPNAME, PC, CAUSE, 0, ST}. -/
def State.status (s : State) : Word :=
  s.chipVer ++ s.chipName ++ s.pc ++ s.cause ++ (0 : BitVec 2) ++ s.st.code

end Sys2Proof.Machine
end

