-- ==== Sys2Proof/WellFormed.lean ====
section
/-! DEFINITION. Which instruction terms an encoding exists for. The operand types already carry every field width,
so the one value the decoder never gives is LANESEL's reserved mode (30_encoding.md R80, R88). Ranges against
the parameters are execution's checks, not the decoder's (R90). -/

namespace Sys2Proof

/-- A lane mode that has a code in this spec: 0, 1 or 2 (R88). -/
def LaneMode.legal (m : LaneMode) : Bool := m != 3

/-- Well-formedness of an instruction term: the decoder can give it (R81). -/
def Instr.wf : Instr → Bool
  | .mwr _ _ _ => true
  | .wr32 _ _ => true
  | .domset _ _ => true
  | .busrd _ _ _ => true
  | .buswr _ _ _ => true
  | .idchk _ => true
  | .lanesel _ mode => LaneMode.legal mode
  | .pingrp _ => true
  | .gpiodir _ _ _ => true
  | .gpiowr _ _ _ => true
  | .endPlan => true

end Sys2Proof
end

