-- ==== Sys2Proof/Decode.lean ====
section
/-! DEFINITION. The decoder of 30_encoding.md, total on any bytes and refusing by name (R81), and after it the
encoder, written from the same table (R76 to R89). -/

namespace Sys2Proof

/-! ## Operand codes -/

/-- R85: `lvl = B[0]`. -/
def VLevel.ofBit (b : Bool) : VLevel := if b then .v3_3 else .v1_8

/-- R85: the level's code in one bit. -/
def VLevel.code : VLevel → BitVec 1
  | .v1_8 => 0
  | .v3_3 => 1

/-- R89: `dir = C[0]`. -/
def PinDir.ofBit (b : Bool) : PinDir := if b then .output else .input

/-- R89: the direction's code in one bit. -/
def PinDir.code : PinDir → BitVec 1
  | .input => 0
  | .output => 1

/-- R89: `level = C[0]`. -/
def PinLevel.ofBit (b : Bool) : PinLevel := if b then .high else .low

/-- R89: the level's code in one bit. -/
def PinLevel.code : PinLevel → BitVec 1
  | .low => 0
  | .high => 1

/-! ## Byte order (R53): a word's byte at the lowest address is its bits 7:0 -/

/-- The 32-bit word whose bytes, lowest address first, are `b0 b1 b2 b3`. -/
def wordOfBytes (b0 b1 b2 b3 : Byte) : Word := b3 ++ b2 ++ b1 ++ b0

/-- Byte `k` of a word: bits `8k+7:8k` (R52). -/
def byteOfWord (w : Word) (k : Nat) : Byte := w.extractLsb' (8 * k) 8

/-- `K = {W2, W1, W0}` (R77). -/
def commandOfWords (w0 w1 w2 : Word) : Command := w2 ++ w1 ++ w0

/-- The twelve bytes of a command as the plan ROM stores them: W0, W1, W2, each little-endian (R53). -/
def bytesOfCommand (k : Command) : List Byte :=
  [k.extractLsb' 0 8, k.extractLsb' 8 8, k.extractLsb' 16 8, k.extractLsb' 24 8,
   k.extractLsb' 32 8, k.extractLsb' 40 8, k.extractLsb' 48 8, k.extractLsb' 56 8,
   k.extractLsb' 64 8, k.extractLsb' 72 8, k.extractLsb' 80 8, k.extractLsb' 88 8]

/-! ## Fields of a command (R76) -/

def Command.op (k : Command) : Byte := k.extractLsb' 0 8
def Command.a (k : Command) : Byte := k.extractLsb' 8 8
def Command.b (k : Command) : Byte := k.extractLsb' 16 8
def Command.c (k : Command) : Byte := k.extractLsb' 24 8
def Command.x (k : Command) : Word := k.extractLsb' 32 32
def Command.y (k : Command) : Word := k.extractLsb' 64 32

/-! ## The decode table (R80) -/

/-- One row of R80: the match and mask over `K`, whether a field holds a reserved value, and the operands
(R83 to R89). -/
structure Row where
  pattern : Command
  mask : Command
  reserved : Command → Bool
  operands : Command → Instr

/-- MWR (R80, R83). -/
def rowMwr : Row where
  pattern := 0x000000000000000000000001
  mask := 0x0000000000000000FFFFFFFF
  reserved := fun _ => false
  operands := fun k => .mwr (Command.x k) ((Command.y k).extractLsb' 16 16) ((Command.y k).extractLsb' 0 16)

/-- WR32 (R80, R84). -/
def rowWr32 : Row where
  pattern := 0x000000000000000000000002
  mask := 0x0000000000000000FFFFFFFF
  reserved := fun _ => false
  operands := fun k => .wr32 (Command.x k) (Command.y k)

/-- DOMSET (R80, R85). -/
def rowDomset : Row where
  pattern := 0x000000000000000000000003
  mask := 0xFFFFFFFFFFFFFFFFFFFE00FF
  reserved := fun _ => false
  operands := fun k => .domset (Command.a k) (VLevel.ofBit ((Command.b k).getLsbD 0))

/-- BUSRD (R80, R86). -/
def rowBusrd : Row where
  pattern := 0x000000000000000000000004
  mask := 0xFFFFFFFFFFFFFFFFFE0080FF
  reserved := fun _ => false
  operands := fun k =>
    .busrd ((Command.a k).extractLsb' 0 7) (Command.b k) ((Command.c k).extractLsb' 0 1)

/-- BUSWR (R80, R86). -/
def rowBuswr : Row where
  pattern := 0x000000000000000000000005
  mask := 0xFFFFFFFFFFFFFFFF000080FF
  reserved := fun _ => false
  operands := fun k => .buswr ((Command.a k).extractLsb' 0 7) (Command.b k) (Command.c k)

/-- IDCHK (R80, R87). -/
def rowIdchk : Row where
  pattern := 0x000000000000000000000006
  mask := 0xFFFFFFFFFFFFF000FFFFFFFF
  reserved := fun _ => false
  operands := fun k => .idchk ((Command.x k).extractLsb' 0 12)

/-- LANESEL (R80, R88): mode code 3 is a reserved value. -/
def rowLanesel : Row where
  pattern := 0x000000000000000000000007
  mask := 0xFFFFFFFFFFFFFFFFFFFC00FF
  reserved := fun k => !LaneMode.legal ((Command.b k).extractLsb' 0 2)
  operands := fun k => .lanesel (Command.a k) ((Command.b k).extractLsb' 0 2)

/-- PINGRP (R80, R89). -/
def rowPingrp : Row where
  pattern := 0x000000000000000000000008
  mask := 0xFFFFFFFFFFFFFFFFFFFF00FF
  reserved := fun _ => false
  operands := fun k => .pingrp (Command.a k)

/-- GPIODIR (R80, R89). -/
def rowGpiodir : Row where
  pattern := 0x000000000000000000000009
  mask := 0xFFFFFFFFFFFFFFFFFE0000FF
  reserved := fun _ => false
  operands := fun k => .gpiodir (Command.a k) (Command.b k) (PinDir.ofBit ((Command.c k).getLsbD 0))

/-- GPIOWR (R80, R89). -/
def rowGpiowr : Row where
  pattern := 0x00000000000000000000000A
  mask := 0xFFFFFFFFFFFFFFFFFE0000FF
  reserved := fun _ => false
  operands := fun k => .gpiowr (Command.a k) (Command.b k) (PinLevel.ofBit ((Command.c k).getLsbD 0))

/-- END (R80). -/
def rowEnd : Row where
  pattern := 0x00000000000000000000000F
  mask := 0xFFFFFFFFFFFFFFFFFFFFFFFF
  reserved := fun _ => false
  operands := fun _ => .endPlan

/-- R80's eleven rows. -/
def decodeTable : List Row :=
  [rowMwr, rowWr32, rowDomset, rowBusrd, rowBuswr, rowIdchk, rowLanesel, rowPingrp, rowGpiodir, rowGpiowr, rowEnd]

/-- Why the decoder gives no instruction (R81, R94). Each makes the coordinator raise ILLEGAL_COMMAND (R163). -/
inductive DecodeReject where
  /-- The opcode is in no row of R80 (R94). -/
  | reservedOpcode (op : Byte)
  /-- A must-be-zero bit of the row's mask is set (R77, R81). -/
  | reservedBits
  /-- A field holds a reserved value of its row (R81). -/
  | reservedValue
  /-- Not the twelve bytes of one command (R75). -/
  | notTwelveBytes
deriving DecidableEq, Repr

/-- The row of an opcode: R81's "Take `op = W0[7:0]`". -/
def rowOf (op : Byte) : Option Row := decodeTable.find? (fun r => Command.op r.pattern == op)

/-- R81, the decoding procedure, over the 96-bit command value. -/
def decodeCommand (k : Command) : Except DecodeReject Instr :=
  match rowOf (Command.op k) with
  | none => .error (.reservedOpcode (Command.op k))
  | some r =>
    if k &&& r.mask = r.pattern then
      if r.reserved k then .error .reservedValue else .ok (r.operands k)
    else .error .reservedBits

/-- The decoder over bytes as the plan ROM stores them (R53, R75, R81): total on any list of bytes. -/
def decode : List Byte → Except DecodeReject Instr
  | [b0, b1, b2, b3, b4, b5, b6, b7, b8, b9, b10, b11] =>
    decodeCommand (commandOfWords (wordOfBytes b0 b1 b2 b3) (wordOfBytes b4 b5 b6 b7) (wordOfBytes b8 b9 b10 b11))
  | _ => .error .notTwelveBytes

/-- The instruction the decoder reads where a command's low `nbits` bits are those of `w` and the rest are 0,
laid out in bytes as the plan ROM stores it. -/
def decodeTableWord (nbits w : Nat) : Option Instr :=
  match decode (bytesOfCommand (BitVec.ofNat 96 (w % 2 ^ nbits))) with
  | .ok i => some i
  | .error _ => none

/-! ## The encoder -/

/-- The command value with the given fields (R76, R77). -/
def packCommand (op a b c : Byte) (x y : Word) : Command := y ++ x ++ c ++ b ++ a ++ op

/-- R79, R83 to R89: the command value of an instruction, every other field 0. -/
def encode : Instr → Command
  | .mwr addr mask value => packCommand 0x01 0 0 0 addr (mask ++ value)
  | .wr32 addr data => packCommand 0x02 0 0 0 addr data
  | .domset dom lvl => packCommand 0x03 dom (lvl.code.setWidth 8) 0 0 0
  | .busrd dev reg idx => packCommand 0x04 (dev.setWidth 8) reg (idx.setWidth 8) 0 0
  | .buswr dev reg data => packCommand 0x05 (dev.setWidth 8) reg data 0 0
  | .idchk expected => packCommand 0x06 0 0 0 (expected.setWidth 32) 0
  | .lanesel lane mode => packCommand 0x07 lane (mode.setWidth 8) 0 0 0
  | .pingrp g => packCommand 0x08 g 0 0 0 0
  | .gpiodir bank pin dir => packCommand 0x09 bank pin (dir.code.setWidth 8) 0 0
  | .gpiowr bank pin level => packCommand 0x0A bank pin (level.code.setWidth 8) 0 0
  | .endPlan => packCommand 0x0F 0 0 0 0 0

/-- The twelve bytes of an instruction as the plan ROM stores them (R53). -/
def encodeBytes (i : Instr) : List Byte := bytesOfCommand (encode i)

end Sys2Proof
end

