-- ==== Sys2Proof/Machine/Sparse.lean ====
section
/-! DEFINITION. Sparse tables: lists of (key, value) pairs in one canonical form, keys strictly rising and no value equal
to the table's default. Every mirror of external hardware and the plan ROM is one, so that equal contents are
equal data. Reading and writing obey their laws on any list; writing keeps the canonical form. -/

namespace Sys2Proof.Machine

/-- The value at key `k`: the first entry for `k`, or the default where none is listed. -/
def sparseGet {α : Type} (d : α) : List (Nat × α) → Nat → α
  | [], _ => d
  | (j, v) :: m, k => if k = j then v else sparseGet d m k

/-- The table without any entry for `k`. -/
def sparseErase {α : Type} : List (Nat × α) → Nat → List (Nat × α)
  | [], _ => []
  | (j, v) :: m, k => if k = j then sparseErase m k else (j, v) :: sparseErase m k

/-- The table with the entry for `k` put in its place. -/
def sparseInsert {α : Type} : List (Nat × α) → Nat → α → List (Nat × α)
  | [], k, v => [(k, v)]
  | (j, u) :: m, k, v =>
    if k < j then (k, v) :: (j, u) :: m
    else if k = j then (k, v) :: m
    else (j, u) :: sparseInsert m k v

/-- Write `v` at key `k`: writing the default removes the entry. -/
def sparseSet {α : Type} [DecidableEq α] (d : α) (m : List (Nat × α)) (k : Nat) (v : α) : List (Nat × α) :=
  if v = d then sparseErase m k else sparseInsert m k v

/-- The listed entries with a key in `keep` as a table in canonical form; the first entry for a key counts. -/
def sparseOf {α : Type} [DecidableEq α] (d : α) (keep : Nat → Bool) : List (Nat × α) → List (Nat × α)
  | [] => []
  | (k, v) :: m => if keep k then sparseSet d (sparseOf d keep m) k v else sparseOf d keep m

/-- Every key of the table is above `lo`, keys rise strictly, and no value is the default. -/
def sparseAbove {α : Type} [DecidableEq α] (d : α) (lo : Option Nat) : List (Nat × α) → Bool
  | [] => true
  | (j, v) :: m => lo.all (fun l => decide (l < j)) && decide (v ≠ d) && sparseAbove d (some j) m

/-- The canonical form. -/
def sparseWf {α : Type} [DecidableEq α] (d : α) (m : List (Nat × α)) : Bool := sparseAbove d none m

end Sys2Proof.Machine
end

