-- ==== Sys2Proof/Machine/Operands.lean ====
section
/-! DEFINITION. The values commands compute from their operands: the masked-write composition (R100, R103), the register's
own merge (R55), descriptor fields (R91, R92), identification decoding (R136) and the range checks against the
parameters (R90). -/

namespace Sys2Proof.Machine

/-! ## Masked writes -/

/-- R100: the stored word of a masked write. -/
def compose (mask16 value16 : Half) : Word := (mask16.setWidth 32 <<< 16) ||| (value16 &&& mask16).setWidth 32

/-- R103: the source's software contract with 32-bit operands. No command can express it; it is here for a reader who
models the contract. -/
def compose32 (mask32 value32 : Word) : Word := (mask32 <<< 16) ||| (value32 &&& mask32)

/-- R55: what a Masked register's cell becomes when `w` is stored to it. -/
def mergeMasked (cell : Half) (w : Word) : Half :=
  (cell &&& ~~~(w.extractLsb' 16 16)) ||| (w.extractLsb' 0 16 &&& w.extractLsb' 16 16)

/-- R54: `addr[1:0] = 0`. -/
def aligned (addr : Word) : Bool := addr.extractLsb' 0 2 == 0

/-! ## Identification (R136) -/

/-- R136: the 12-bit chip name. -/
def decodeName (hi lo : Byte) : BitVec 12 := (hi.setWidth 12 <<< 4) ||| (lo >>> 4).setWidth 12

/-- R136: the 4-bit version. -/
def decodeVer (lo : Byte) : BitVec 4 := lo.extractLsb' 0 4

/-- R134: the two read-only identification registers. -/
def isIdReg (reg : Byte) : Bool := reg == pmicIdHiReg || reg == pmicIdLoReg

/-! ## Pin descriptors (R91) -/

/-- The word that four stored bytes are (R53). -/
def wordStored (w : StoredWord) : Word := wordOfBytes w.b0 w.b1 w.b2 w.b3

/-- A word as it is stored (R53). -/
def storedOf (w : Word) : StoredWord := ⟨byteOfWord w 0, byteOfWord w 1, byteOfWord w 2, byteOfWord w 3⟩

/-- `P_PIN_GROUPS[g]` as descriptor words, where `g < P_NUM_GROUPS` (R51, R53, R93). -/
def groupOf (cfg : Params) (g : Byte) : Option (List Word) :=
  (cfg.pinGroups[g.toNat]?).map (fun ds => ds.map wordStored)

def descPin (d : Word) : Byte := d.extractLsb' 0 8
def descBank (d : Word) : Byte := d.extractLsb' 8 8
def descFunc (d : Word) : BitVec 4 := d.extractLsb' 16 4
def descPull (d : Word) : BitVec 2 := d.extractLsb' 20 2
def descDrive (d : Word) : BitVec 4 := d.extractLsb' 22 4
def descReserved (d : Word) : BitVec 6 := d.extractLsb' 26 6

/-- R114's `pullCode`: 0 None, 1 PullUp, 2 PullDown. Code 3 is ill-formed (R92) and never applied. -/
def pullOfCode (c : BitVec 2) : Pull :=
  if c = 1 then .pullUp else if c = 2 then .pullDown else .none

/-- R90: a pin address within the parameters' ranges. -/
def pinInRange (cfg : Params) (bank pin : Byte) : Bool :=
  decide (bank.toNat < cfg.numBanks) && decide (pin.toNat < cfg.pinsPerBank)

/-- R92: the descriptor is not ill-formed. -/
def descWf (cfg : Params) (d : Word) : Bool :=
  descReserved d == 0 && descPull d != 3 && decide ((descDrive d).toNat ≤ cfg.driveLevels)
    && pinInRange cfg (descBank d) (descPin d) && decide ((descFunc d).toNat < cfg.numFuncs)

/-- R92: no descriptor of the group is ill-formed. -/
def groupWf (cfg : Params) (ds : List Word) : Bool := ds.all (descWf cfg)

/-- R114: what one descriptor makes of the pin it names. DRIVE 0 ("default") leaves the drive (R115); `dir` and `level`
are not written (R120). -/
def descApplied (d : Word) (p : Pin) : Pin :=
  { p with
    func := descFunc d
    pull := pullOfCode (descPull d)
    drive := if descDrive d = 0 then p.drive else descDrive d }

/-! ## Table keys -/

/-- The key of a pin in `State.pins`. -/
def pinKey (bank pin : Byte) : Nat := 256 * bank.toNat + pin.toNat

/-- The kind of an MMIO address: P_REGKIND (R10). -/
def regKindOf (cfg : Params) (addr : Word) : RegKind := sparseGet .unmodelled cfg.regKind addr.toNat

/-- A byte of some register's cell (R33): its aligned address is that of a Masked register and it is one of the low two bytes,
or of a Plain register. -/
def cellByte (cfg : Params) (a : Nat) : Bool :=
  decide (a < 2 ^ 32) &&
    match regKindOf cfg (BitVec.ofNat 32 (a - a % 4)) with
    | .masked => decide (a % 4 < 2)
    | .plain => true
    | .unmodelled => false

/-! ## Draws after an `Err` (R38; log 4) -/

/-- The mode code a lane is left with by a failed select. -/
def drawnMode (left : Byte) : LaneMode := left.extractLsb' 0 2

/-- The level a domain is left with by a failed set. -/
def drawnLevel (left : Byte) : VLevel := VLevel.ofBit (left.getLsbD 0)

end Sys2Proof.Machine
end

