-- ==== Sys2Proof/Machine/Ops.lean ====
section
/-! DEFINITION. The named operations the commands are made of: raising a fault (R158), advancing (R165), logging (R39), asking
the oracle (R66), reading and writing each kind of state, and fetching a command's bytes (R162). -/

namespace Sys2Proof.Machine

/-! ## Coordinator operations -/

/-- `raise F` (R14, R158): the spec's one way of taking an exception. The cause is recorded, the run ends in DoneFail,
`pc` stays at the faulting command, nothing is saved and control goes nowhere (R181, R183). There is no return
from it (R184): only a reset leaves DoneFail. -/
def State.raise (c : Cause) (s : State) : State := { s with cause := c.code, st := .doneFail }

/-- `pc <- pc + 1` (R24, R165). -/
def State.advance (s : State) : State := { s with pc := s.pc + 1 }

/-- `emit(e)` (R14, R39). -/
def State.emit (e : Event) (s : State) : State := { s with log := s.log ++ [e] }

/-! ## The oracle (R66) -/

/-- The canonical form of byte memory. -/
abbrev Memory.wf (m : Memory) : Bool := sparseWf Config.unlistedByte m

/-- `pmic[r]` (R34). -/
def State.pmicReg (s : State) (r : Byte) : Byte := sparseGet Config.unlistedByte s.pmic r.toNat

/-- The reference backend's answer (R66): `Ok` to every call, and to a read of the regulator `Ok(pmic[r])`. -/
def State.referenceAnswer (s : State) : Call → Answer
  | .busRead _ dev reg =>
    if dev = s.cfg.pmicAddr then .ok (s.pmicReg reg) else .ok (Config.otherDeviceByte s.calls dev reg)
  | .busWrite _ _ _ _ => .ok 0
  | .laneSelect _ _ => .ok 0
  | .domainSet _ _ => .ok 0

/-- The oracle's answer to a call made in state `s` (R66; log 3): the next listed answer, else the backend's. -/
def State.answerTo (s : State) (c : Call) : Answer :=
  match s.answers with
  | a :: _ => a
  | [] =>
    match s.backend with
    | .free => Config.oracle s.calls s.log c
    | .reference => s.referenceAnswer c

/-- The state once a call has been answered: the answer is used up. -/
def State.asked (s : State) : State := { s with answers := s.answers.tail, calls := s.calls + 1 }

/-! ## Capture and identification registers (R21, R22) -/

/-- `cap[idx]`. -/
def State.cap (s : State) (idx : BitVec 1) : Byte := if idx = 0 then s.cap0 else s.cap1

/-- `capValid[idx]`. -/
def State.capValid (s : State) (idx : BitVec 1) : Bool := if idx = 0 then s.capValid0 else s.capValid1

/-- `cap[idx] <- byte; capValid[idx] <- 1` (R130). -/
def State.setCapture (idx : BitVec 1) (byte : Byte) (s : State) : State :=
  { s with
    cap0 := if idx = 0 then byte else s.cap0
    cap1 := if idx = 0 then s.cap1 else byte
    capValid0 := if idx = 0 then true else s.capValid0
    capValid1 := if idx = 0 then s.capValid1 else true }

/-- `chipName` and `chipVer` from the captures (R137). -/
def State.setIdentity (s : State) : State :=
  { s with chipName := decodeName (s.cap 0) (s.cap 1), chipVer := decodeVer (s.cap 1) }

/-! ## The one-shot sets (R31, R32) -/

/-- `lane in laneSel`. -/
def State.laneTaken (s : State) (lane : Byte) : Bool := s.laneSel.getLsbD lane.toNat

/-- `dom in domSet`. -/
def State.domTaken (s : State) (dom : Byte) : Bool := s.domSet.getLsbD dom.toNat

/-- `ids ∪ {id}`. -/
def insertId (ids : BitVec 256) (id : Byte) : BitVec 256 := ids ||| BitVec.twoPow 256 id.toNat

/-- `laneSel <- laneSel ∪ {lane}`. -/
def State.addLane (lane : Byte) (s : State) : State := { s with laneSel := insertId s.laneSel lane }

/-- `domSet <- domSet ∪ {dom}`. -/
def State.addDom (dom : Byte) (s : State) : State := { s with domSet := insertId s.domSet dom }

/-! ## The mirrors (R33 to R37) -/

/-- One byte of the MMIO mirror. -/
def State.mmioByte (s : State) (a : Nat) : Byte := sparseGet Config.unlistedByte s.mem a

/-- Write one byte of a memory. -/
def setByte (m : Memory) (a : Nat) (b : Byte) : Memory := sparseSet Config.unlistedByte m a b

/-- `mreg[a]` (R33): bytes `a` and `a + 1`, low byte first (R52). -/
def State.mreg (s : State) (a : Word) : Half := s.mmioByte (a.toNat + 1) ++ s.mmioByte a.toNat

/-- `preg[a]` (R33): bytes `a` to `a + 3`, low byte first (R52). -/
def State.preg (s : State) (a : Word) : Word :=
  wordOfBytes (s.mmioByte a.toNat) (s.mmioByte (a.toNat + 1)) (s.mmioByte (a.toNat + 2)) (s.mmioByte (a.toNat + 3))

/-- Write a 16-bit cell. -/
def setCell16 (m : Memory) (a : Nat) (v : Half) : Memory :=
  setByte (setByte m a (v.extractLsb' 0 8)) (a + 1) (v.extractLsb' 8 8)

/-- Write a 32-bit cell. -/
def setCell32 (m : Memory) (a : Nat) (w : Word) : Memory :=
  setByte (setByte (setByte (setByte m a (byteOfWord w 0)) (a + 1) (byteOfWord w 1)) (a + 2) (byteOfWord w 2)) (a + 3)
    (byteOfWord w 3)

/-- `MemWrite(addr, 4, w)`: the effect of the store on the mirror, by the register's kind (R55, R56, R57). -/
def State.memWrite (addr w : Word) (s : State) : State :=
  { s with
    mem := match regKindOf s.cfg addr with
      | .masked => setCell16 s.mem addr.toNat (mergeMasked (s.mreg addr) w)
      | .plain => setCell32 s.mem addr.toNat w
      | .unmodelled => s.mem }

/-- A host's read-back of an MMIO register after the run (R58): a Masked register's upper half is a free value (log 14); an
Unmodelled address has no cell to read. DESIGN CHOICE (log 14): R58 does not say what a read at an address that is not
4-aligned gives; R33 keeps no cell there, whatever P_REGKIND lists, so there is nothing to read either. -/
def State.mmioReadBack (s : State) (addr : Word) : Option Word :=
  if aligned addr then
    match regKindOf s.cfg addr with
    | .masked => some (Config.hiRead s.log addr ++ s.mreg addr)
    | .plain => some (s.preg addr)
    | .unmodelled => none
  else none

/-- `pin[bank][pin]` (R35). -/
def State.pin (s : State) (bank pin : Byte) : Pin := sparseGet Config.unlistedPin s.pins (pinKey bank pin)

/-- Replace `pin[bank][pin]`. -/
def State.setPin (bank pin : Byte) (v : Pin) (s : State) : State :=
  { s with pins := sparseSet Config.unlistedPin s.pins (pinKey bank pin) v }

/-- `applyDesc(d)` (R114) on the table of pins. -/
def applyDesc (d : Word) (pins : List (Nat × Pin)) : List (Nat × Pin) :=
  sparseSet Config.unlistedPin pins (pinKey (descBank d) (descPin d))
    (descApplied d (sparseGet Config.unlistedPin pins (pinKey (descBank d) (descPin d))))

/-- `for d in ds, in list order: applyDesc(d)` (R116, R118). -/
def State.applyDescs (ds : List Word) (s : State) : State :=
  { s with pins := ds.foldl (fun pins d => applyDesc d pins) s.pins }

/-- `laneMode[l]` (R36). -/
def State.modeOf (s : State) (lane : Byte) : LaneMode := sparseGet Config.unlistedMode s.laneMode lane.toNat

/-- `laneMode[l] <- m` (R146). -/
def State.setMode (lane : Byte) (m : LaneMode) (s : State) : State :=
  { s with laneMode := sparseSet Config.unlistedMode s.laneMode lane.toNat m }

/-- `domLevel[d]` (R37). -/
def State.levelOf (s : State) (dom : Byte) : VLevel := sparseGet Config.unlistedLevel s.domLevel dom.toNat

/-- `domLevel[d] <- lvl` (R150). -/
def State.setLevel (dom : Byte) (lvl : VLevel) (s : State) : State :=
  { s with domLevel := sparseSet Config.unlistedLevel s.domLevel dom.toNat lvl }

/-! ## The plan ROM (R51, R53, R162) -/

/-- One byte of the plan ROM. -/
def State.romByte (s : State) (offset : Nat) : Byte := sparseGet Config.unlistedByte s.planRom offset

/-- `plan[n]`: the ROM as 32-bit little-endian words (R53, R162). -/
def State.romWord (s : State) (n : Nat) : Word :=
  wordOfBytes (s.romByte (4 * n)) (s.romByte (4 * n + 1)) (s.romByte (4 * n + 2)) (s.romByte (4 * n + 3))

/-- The twelve bytes of command `k`: offsets `12k` to `12k + 11` (R51). -/
def State.commandBytes (s : State) (k : Nat) : List Byte :=
  [s.romByte (12 * k), s.romByte (12 * k + 1), s.romByte (12 * k + 2), s.romByte (12 * k + 3),
   s.romByte (12 * k + 4), s.romByte (12 * k + 5), s.romByte (12 * k + 6), s.romByte (12 * k + 7),
   s.romByte (12 * k + 8), s.romByte (12 * k + 9), s.romByte (12 * k + 10), s.romByte (12 * k + 11)]

/-- The fetch (R162): the bytes of the command at `pc`. -/
def State.fetch (s : State) : List Byte := s.commandBytes s.pc.toNat

/-- Lay bytes into the plan ROM from an offset on. -/
def layBytes : Memory → Nat → List Byte → Memory
  | m, _, [] => m
  | m, a, b :: bs => layBytes (setByte m a b) (a + 1) bs

/-- The plan ROM built from instructions, from command `k` on (R51). -/
def layPlan : Memory → Nat → List Instr → Memory
  | m, _, [] => m
  | m, k, i :: is => layPlan (layBytes m (12 * k) (encodeBytes i)) (k + 1) is

end Sys2Proof.Machine
end

