-- ==== Sys2Proof/Machine/Coordinator.lean ====
section
/-! DEFINITION. The coordinator (44_coordinator.md): END, and what the next step is: the host's start, reset and launch inputs (R155,
R156, R196, R202, R222), and in Run the fetch and decode of the command at `pc` (R157, R162, R163). Machine/Step.lean only
carries the decision out. -/

namespace Sys2Proof.Machine

/-- END (R161): `st <- DoneOk`, `pc` unchanged. -/
def execEndPlan (s : State) : Host.Outcome State Fault Refusal :=
  .next { s with st := .doneOk }

/-- Block reset (R202): the block's own rows of R200 take their reset values. External hardware is not reset (R196); the
parameters, the plan ROM and the environment's fields are no part of the block's state (log 10). Where it ends or
abandons a run, the next run needs a launch (R222; log 27). -/
def State.blockReset (s : State) : State :=
  { s with
    st := State.reset.st
    pc := State.reset.pc
    cause := State.reset.cause
    cap0 := State.reset.cap0
    cap1 := State.reset.cap1
    capValid0 := State.reset.capValid0
    capValid1 := State.reset.capValid1
    chipName := State.reset.chipName
    chipVer := State.reset.chipVer
    laneSel := State.reset.laneSel
    domSet := State.reset.domSet
    log := State.reset.log
    launched := s.launched && s.st == .idle }

/-- Launch (R202): a block reset together with the external hardware at its own reset, which leaves every external row of R200
a fresh draw (log 29). A mirror takes the draw where it has a location (R33 to R37). -/
def State.launch (x : ExternalDraw) (s : State) : State :=
  { s.blockReset with
    mem := sparseOf Config.unlistedByte (cellByte s.cfg) x.mem
    pmic := sparseOf Config.unlistedByte (fun r => decide (r < 256)) x.pmic
    pins := sparseOf Config.unlistedPin (fun k => decide (k < 65536)) x.pins
    laneMode := sparseOf Config.unlistedMode (fun l => decide (l < 256)) x.laneMode
    domLevel := sparseOf Config.unlistedLevel (fun d => decide (d < 256)) x.domLevel
    launched := true }

/-- `start(ctx)` (R155, R156): accepted in Idle only, and it changes only `st`. A second run without a launch between is refused
(R222, 90_conflicts.md C9; log 27). -/
def State.start (s : State) : Host.Outcome State Fault Refusal :=
  match s.st with
  | .idle => if s.launched then .next { s with st := .run } else .refused .secondRun
  | .run => .refused .startNotIdle
  | .doneOk => .refused .startNotIdle
  | .doneFail => .refused .startNotIdle

/-- What the next step does: it is settled without running an instruction, or it runs `i` in `s`. -/
inductive Move where
  | settled (o : Host.Outcome State Fault Refusal)
  | execute (i : Instr) (s : State)

/-- Fetch and decode in Run (R162, R163): past the end of the plan PLAN_OVERRUN, a command that does not decode
ILLEGAL_COMMAND, each with no other effect. -/
def State.fetchMove (s : State) : Move :=
  if s.pc < s.planLen then
    match decode s.fetch with
    | .ok i => .execute i s
    | .error _ => .settled (.next (s.raise .illegalCommand))
  else .settled (.next (s.raise .planOverrun))

/-- The coordinator's own step: enabled only in Run (R157, R160). -/
def State.coordMove (s : State) : Move :=
  match s.st with
  | .idle => .settled (.fault .notStarted)
  | .run => s.fetchMove
  | .doneOk => .settled (.fault .runEnded)
  | .doneFail => .settled (.fault .runEnded)

/-- The next step: the host's next input if it has one (R195; log 9), else the coordinator's own step. -/
def State.nextMove (s : State) : Move :=
  match s.host with
  | [] => s.coordMove
  | .proceed :: rest => State.coordMove { s with host := rest }
  | .start _ :: rest => .settled (State.start { s with host := rest })
  | .reset :: rest => .settled (.next (State.blockReset { s with host := rest }))
  | .launch x :: rest => .settled (.next (State.launch x { s with host := rest }))
  | .writeStatus _ :: _ => .settled (.refused .statusReadOnly)

/-- The state with one command's bytes in the plan ROM at `pc`, the plan long enough to hold it, and the block in Run with
no host input before its step: a ROM built with that command, and its start, in one (log 2). -/
def State.placedAtPc (s : State) (bytes : List Byte) : State :=
  { s with
    planRom := layBytes s.planRom (12 * s.pc.toNat) bytes
    planLen := if s.pc < s.planLen then s.planLen else s.pc + 1
    st := .run
    host := [] }

end Sys2Proof.Machine
end

