-- ==== Sys2Proof/Machine/LaneDomain.lean ====
section
/-! DEFINITION. The lane mode and voltage-domain ports: LANESEL and DOMSET (43_phy_domain.md). -/

namespace Sys2Proof.Machine

/-- R146's calling part, once the checks have passed. -/
def State.laneCall (lane : Byte) (mode : LaneMode) (s : State) : State :=
  match s.answerTo (.laneSelect lane mode) with
  | .ok _ => (((s.asked.emit (.laneSel lane mode .ok)).setMode lane mode).addLane lane).advance
  | .err left => ((s.asked.emit (.laneSel lane mode .err)).setMode lane (drawnMode left)).raise .laneError

/-- R146: the checks in their order, then the call. -/
def State.laneSelect (lane : Byte) (mode : LaneMode) (s : State) : State :=
  if mode = 3 ∨ s.cfg.numLanes ≤ lane.toNat then s.raise .illegalCommand
  else if s.laneTaken lane then s.raise .laneReselect
  else s.laneCall lane mode

/-- R150's calling part, once the check has passed. -/
def State.domCall (dom : Byte) (lvl : VLevel) (s : State) : State :=
  match s.answerTo (.domainSet dom lvl) with
  | .ok _ => (((s.asked.emit (.domSet dom lvl .ok)).setLevel dom lvl).addDom dom).advance
  | .err left => ((s.asked.emit (.domSet dom lvl .err)).setLevel dom (drawnLevel left)).raise .domainError

/-- R150: the check, then the call. -/
def State.domainSet (dom : Byte) (lvl : VLevel) (s : State) : State :=
  if s.domTaken dom then s.raise .domainReset else s.domCall dom lvl

/-- LANESEL (R145 to R147). -/
def execLanesel (lane : Byte) (mode : LaneMode) (s : State) : Host.Outcome State Fault Refusal :=
  .next (s.laneSelect lane mode)

/-- DOMSET (R150, R151). -/
def execDomset (dom : Byte) (lvl : VLevel) (s : State) : Host.Outcome State Fault Refusal :=
  .next (s.domainSet dom lvl)

end Sys2Proof.Machine
end

