-- ==== Sys2Proof/Machine/MaskedWriter.lean ====
section
/-! DEFINITION. The masked register writer: MWR and WR32 (40_masked_writer.md). -/

namespace Sys2Proof.Machine

/-- The common body of R101 and R104: the alignment check, one 32-bit store, its event, `pc + 1`. -/
def State.storeWord (addr w : Word) (s : State) : State :=
  if aligned addr then ((s.memWrite addr w).emit (.mmioWr addr w)).advance else s.raise .misaligned

/-- MWR (R101, R102): store `compose(mask, value)`. -/
def execMwr (addr : Word) (mask value : Half) (s : State) : Host.Outcome State Fault Refusal :=
  .next (s.storeWord addr (compose mask value))

/-- WR32 (R104, R105): store `data` whole. -/
def execWr32 (addr data : Word) (s : State) : Host.Outcome State Fault Refusal :=
  .next (s.storeWord addr data)

end Sys2Proof.Machine
end

