-- ==== Sys2Proof/Machine/PinEngine.lean ====
section
/-! DEFINITION. The pin configuration descriptor engine: PINGRP, GPIODIR and GPIOWR (41_pin_engine.md). -/

namespace Sys2Proof.Machine

/-- `P_PIN_GROUPS[g]`, where `g < P_NUM_GROUPS` (R90, R93). -/
def State.group (s : State) (g : Byte) : Option (List Word) := groupOf s.cfg g

/-- R116: the whole group is checked before any descriptor is applied (R117). -/
def State.pinGroup (g : Byte) (s : State) : State :=
  match s.group g with
  | none => s.raise .illegalCommand
  | some ds =>
    if groupWf s.cfg ds then ((s.emit (.pinGroup g ds)).applyDescs ds).advance else s.raise .illegalCommand

/-- The common body of R122 and R124: the range check, the event, the named pin's new record, `pc + 1`. -/
def State.gpio (bank pin : Byte) (e : Event) (change : Pin → Pin) (s : State) : State :=
  if pinInRange s.cfg bank pin then ((s.emit e).setPin bank pin (change (s.pin bank pin))).advance
  else s.raise .illegalCommand

/-- PINGRP (R116 to R121). -/
def execPingrp (g : Byte) (s : State) : Host.Outcome State Fault Refusal :=
  .next (s.pinGroup g)

/-- GPIODIR (R122, R123). -/
def execGpiodir (bank pin : Byte) (dir : PinDir) (s : State) : Host.Outcome State Fault Refusal :=
  .next (s.gpio bank pin (.gpioDir bank pin dir) (fun p => { p with dir := dir }))

/-- GPIOWR (R123 to R125): the latch is written whatever the direction. -/
def execGpiowr (bank pin : Byte) (level : PinLevel) (s : State) : Host.Outcome State Fault Refusal :=
  .next (s.gpio bank pin (.gpioWr bank pin level) (fun p => { p with level := level }))

end Sys2Proof.Machine
end

