-- ==== Sys2Proof/Machine/TwoWire.lean ====
section
/-! DEFINITION. The two-wire transaction sequencer: BUSRD, BUSWR and IDCHK (42_two_wire.md). -/

namespace Sys2Proof.Machine

/-- R130: one read transaction into a capture register. -/
def State.busReadInto (dev : BitVec 7) (reg : Byte) (idx : BitVec 1) (s : State) : State :=
  match s.answerTo (.busRead s.cfg.bus dev reg) with
  | .ok byte => ((s.asked.emit (.busRd dev reg (.ok byte))).setCapture idx byte).advance
  | .err _ => (s.asked.emit (.busRd dev reg .err)).raise .busError

/-- R133, R134: what an `Ok` write leaves in the regulator's mirror. -/
def State.pmicWritten (dev : BitVec 7) (reg data : Byte) (s : State) : State :=
  { s with
    pmic := if dev = s.cfg.pmicAddr ∧ isIdReg reg = false then sparseSet Config.unlistedByte s.pmic reg.toNat data
      else s.pmic }

/-- R133, R38: what a failed write leaves in the regulator's mirror: a draw in the addressed register. -/
def State.pmicDrawn (dev : BitVec 7) (reg left : Byte) (s : State) : State :=
  { s with
    pmic := if dev = s.cfg.pmicAddr then sparseSet Config.unlistedByte s.pmic reg.toNat left else s.pmic }

/-- R133: one write transaction. -/
def State.busWriteTo (dev : BitVec 7) (reg data : Byte) (s : State) : State :=
  match s.answerTo (.busWrite s.cfg.bus dev reg data) with
  | .ok _ => ((s.asked.emit (.busWr dev reg data .ok)).pmicWritten dev reg data).advance
  | .err left => ((s.asked.emit (.busWr dev reg data .err)).pmicDrawn dev reg left).raise .busError

/-- R137: the identification check. The identity registers are written on a match and on a mismatch. -/
def State.identityCheck (expected : BitVec 12) (s : State) : State :=
  if s.capValid 0 && s.capValid 1 then
    if decodeName (s.cap 0) (s.cap 1) = expected then s.setIdentity.advance else s.setIdentity.raise .idMismatch
  else s.raise .unwrittenCapture

/-- BUSRD (R130 to R132). -/
def execBusrd (dev : BitVec 7) (reg : Byte) (idx : BitVec 1) (s : State) : Host.Outcome State Fault Refusal :=
  .next (s.busReadInto dev reg idx)

/-- BUSWR (R131 to R134). -/
def execBuswr (dev : BitVec 7) (reg data : Byte) (s : State) : Host.Outcome State Fault Refusal :=
  .next (s.busWriteTo dev reg data)

/-- IDCHK (R136 to R138). -/
def execIdchk (expected : BitVec 12) (s : State) : Host.Outcome State Fault Refusal :=
  .next (s.identityCheck expected)

end Sys2Proof.Machine
end

