-- ==== Sys2Proof/Machine/Dispatch.lean ====
section
/-! DEFINITION. One arm per command: the meaning its rule gives it (44_coordinator.md R164). -/

namespace Sys2Proof.Machine

def exec (i : Instr) (s : State) : Host.Outcome State Fault Refusal :=
  match i with
  | .mwr addr mask value => Sys2Proof.Machine.execMwr addr mask value s
  | .wr32 addr data => Sys2Proof.Machine.execWr32 addr data s
  | .domset dom lvl => Sys2Proof.Machine.execDomset dom lvl s
  | .busrd dev reg idx => Sys2Proof.Machine.execBusrd dev reg idx s
  | .buswr dev reg data => Sys2Proof.Machine.execBuswr dev reg data s
  | .idchk expected => Sys2Proof.Machine.execIdchk expected s
  | .lanesel lane mode => Sys2Proof.Machine.execLanesel lane mode s
  | .pingrp g => Sys2Proof.Machine.execPingrp g s
  | .gpiodir bank pin dir => Sys2Proof.Machine.execGpiodir bank pin dir s
  | .gpiowr bank pin level => Sys2Proof.Machine.execGpiowr bank pin level s
  | .endPlan => Sys2Proof.Machine.execEndPlan s

end Sys2Proof.Machine
end

