-- ==== Sys2Proof/Machine/Step.lean ====
section
/-! DEFINITION. One step of the machine (44_coordinator.md R157): what Machine/Coordinator.lean decides, carried out. -/

namespace Sys2Proof.Machine

/-- One step. -/
def step (s : State) : Host.Outcome State Fault Refusal :=
  match s.nextMove with
  | .settled o => o
  | .execute i t => exec i t

/-- `s` with one command stored where `step` fetches next, and ready to run it (log 2): its low `nbits` bits are those of
`w`, the rest 0. -/
def State.withFetchWord (s : State) (nbits w : Nat) : State :=
  s.placedAtPc (bytesOfCommand (BitVec.ofNat 96 (w % 2 ^ nbits)))

end Sys2Proof.Machine
end

