-- ==== Sys2Proof/Machine/Plan.lean ====
section
/-! DEFINITION. The plan ROM's contents: the board plan P_PLAN as a function of the parameters (44_coordinator.md R169, R170),
and loading a plan into the ROM (R42: the ROM is defined at build time, so a load is from outside the machine). -/

namespace Sys2Proof.Machine

/-- R98, R139: `identify DEV, NAME`. -/
def identifySeq (dev : BitVec 7) (name : BitVec 12) : List Instr :=
  [.busrd dev pmicIdHiReg 0, .busrd dev pmicIdLoReg 1, .idchk name]

/-- R140: one list of regulator writes, in list order. -/
def regWrites (cfg : Params) (pairs : List (Byte × Byte)) : List Instr :=
  pairs.map (fun p => .buswr cfg.pmicAddr p.1 p.2)

/-- R107, R109: the board's masked writes. -/
def maskedConstWrite (c : MaskedConst) : Instr := .mwr c.addr c.mask c.value

/-- R98, R126: `gpio_out_high BANK, PIN`. -/
def gpioOutHigh (bp : Byte × Byte) : List Instr :=
  [.gpiodir bp.1 bp.2 .output, .gpiowr bp.1 bp.2 .high]

/-- R98: `gpio_out_low BANK, PIN`. -/
def gpioOutLow (bp : Byte × Byte) : List Instr :=
  [.gpiodir bp.1 bp.2 .output, .gpiowr bp.1 bp.2 .low]

/-- The group ids of R93. -/
def groupSd : Byte := 0
def groupEmmc : Byte := 1
def groupPcie3x2 : Byte := 2
def groupPcie2 : Byte := 3
def groupI2c0 : Byte := 4

/-- R169: the eight commands of PCIe bring-up. -/
def pcieBringup (cfg : Params) : List Instr :=
  [.lanesel 2 cfg.pcieLaneMode, .pingrp groupPcie2, .pingrp groupPcie3x2]
    ++ gpioOutHigh cfg.clkReqA ++ gpioOutHigh cfg.clkReqB ++ [maskedConstWrite cfg.iomux]

/-- R170: the board plan, 40 commands. -/
def boardPlan (cfg : Params) : List Instr :=
  cfg.domains.toList.map (fun d => .domset d.1 d.2)
    ++ identifySeq cfg.pmicAddr pmicExpectedName
    ++ regWrites cfg cfg.trim.toList ++ regWrites cfg cfg.enable.toList ++ regWrites cfg cfg.swcfg.toList
    ++ cfg.clkGate.toList.map (fun c => .wr32 c.1 c.2)
    ++ [maskedConstWrite cfg.pll, .lanesel 0 LaneMode.usb3, .lanesel 1 LaneMode.usb3,
        .pingrp groupSd, .pingrp groupEmmc]
    ++ pcieBringup cfg ++ [.endPlan]

/-- The largest P_PLAN_LEN (R10, R24; 90_conflicts.md C8). -/
def maxPlanLen : Nat := 255

/-- A plan placed in the ROM, from command 0 on (R51, R53). One longer than P_PLAN_LEN can say is turned away by R215's check,
at the first pc past the longest plan. -/
def State.loadPlan (plan : List Instr) (s : State) : Host.Outcome State Fault Refusal :=
  if plan.length ≤ maxPlanLen then
    .next { s with planRom := layPlan [] 0 plan, planLen := BitVec.ofNat 8 plan.length }
  else .refused (.notAdmitted .wellformed maxPlanLen)

/-- The reference backend in place of the free oracle, with the regulator's identity as R66 gives it. -/
def State.withReference (s : State) : State :=
  { s with
    answers := []
    backend := .reference
    pmic := sparseSet Config.unlistedByte (sparseSet Config.unlistedByte s.pmic pmicIdHiReg.toNat 0x80)
      pmicIdLoReg.toNat 0x9F }

end Sys2Proof.Machine
end

