-- ==== Sys2Proof/Machine/Assembler.lean ====
section
/-! DEFINITION. The assembler of 30_encoding.md R97 to R99: the command and pseudo-instruction forms with numeric operands,
their expansions, and the text form. An operand that does not fit its field is an error, never truncated. Reading of
the text form that R97 leaves open: log 21. -/

namespace Sys2Proof.Machine

/-- One line of assembly with its operands as numbers (R97, R98, R99). -/
inductive Asm where
  | mwr (addr mask value : Nat)
  | wr32 (addr data : Nat)
  | domset (dom lvl : Nat)
  | busrd (dev reg idx : Nat)
  | buswr (dev reg data : Nat)
  | idchk (name : Nat)
  | lanesel (lane mode : Nat)
  | pingrp (g : Nat)
  | gpiodir (bank pin dir : Nat)
  | gpiowr (bank pin level : Nat)
  | endPlan
  | identify (dev name : Nat)
  | gpioOutHigh (bank pin : Nat)
  | gpioOutLow (bank pin : Nat)
  | mwrField (addr hi lo v : Nat)
  | rmw
deriving DecidableEq, Repr

/-- Why the assembler refuses a line. -/
inductive AsmError where
  /-- An operand does not fit its field (R97). -/
  | doesNotFit
  /-- `mwr_field` without 0 ≤ LO ≤ HI ≤ 15 and V < 2^(HI-LO+1) (R98). -/
  | badField
  /-- The legacy read-modify-write, refused by name: there is no read command (R99, R96). -/
  | rmwRefused
  /-- Not a mnemonic of R97 or R98. -/
  | unknownMnemonic
  /-- Not a number, a symbol of the operand's kind or the name of a parameter that can stand in its place (R97). -/
  | unknownOperand
  /-- Not the number of operands the form has (R97). -/
  | operandCount
deriving DecidableEq, Repr

/-- R97: a number in a field of `w` bits, refused where it does not fit. -/
def fit (w n : Nat) : Except AsmError (BitVec w) :=
  if n < 2 ^ w then .ok (BitVec.ofNat w n) else .error .doesNotFit

/-- A one-bit operand (R85, R89). -/
def fitBit (n : Nat) : Except AsmError Bool :=
  if n < 2 then .ok (n == 1) else .error .doesNotFit

/-- R98: the mask of `mwr_field`, `((1 << (HI-LO+1)) - 1) << LO`. -/
def fieldMask (hi lo : Nat) : Nat := (2 ^ (hi - lo + 1) - 1) * 2 ^ lo

/-- The instructions a line stands for (R97, R98, R99). -/
def assemble : Asm → Except AsmError (List Instr)
  | .mwr addr mask value => do return [.mwr (← fit 32 addr) (← fit 16 mask) (← fit 16 value)]
  | .wr32 addr data => do return [.wr32 (← fit 32 addr) (← fit 32 data)]
  | .domset dom lvl => do return [.domset (← fit 8 dom) (VLevel.ofBit (← fitBit lvl))]
  | .busrd dev reg idx => do return [.busrd (← fit 7 dev) (← fit 8 reg) (← fit 1 idx)]
  | .buswr dev reg data => do return [.buswr (← fit 7 dev) (← fit 8 reg) (← fit 8 data)]
  | .idchk name => do return [.idchk (← fit 12 name)]
  | .lanesel lane mode => do return [.lanesel (← fit 8 lane) (← fit 2 mode)]
  | .pingrp g => do return [.pingrp (← fit 8 g)]
  | .gpiodir bank pin dir => do return [.gpiodir (← fit 8 bank) (← fit 8 pin) (PinDir.ofBit (← fitBit dir))]
  | .gpiowr bank pin level => do return [.gpiowr (← fit 8 bank) (← fit 8 pin) (PinLevel.ofBit (← fitBit level))]
  | .endPlan => .ok [.endPlan]
  | .identify dev name => do return identifySeq (← fit 7 dev) (← fit 12 name)
  | .gpioOutHigh bank pin => do return gpioOutHigh ((← fit 8 bank), (← fit 8 pin))
  | .gpioOutLow bank pin => do return gpioOutLow ((← fit 8 bank), (← fit 8 pin))
  | .mwrField addr hi lo v =>
    if lo ≤ hi ∧ hi ≤ 15 ∧ v < 2 ^ (hi - lo + 1) then do
      return [.mwr (← fit 32 addr) (← fit 16 (fieldMask hi lo)) (← fit 16 (v * 2 ^ lo))]
    else .error .badField
  | .rmw => .error .rmwRefused

/-! ## Numbers, symbols and parameter names (R97) -/

/-- The value of a digit in a base up to 16. -/
def digitOf (base : Nat) (c : Char) : Option Nat :=
  let v := if '0' ≤ c ∧ c ≤ '9' then some (c.toNat - '0'.toNat)
    else if 'a' ≤ c ∧ c ≤ 'f' then some (c.toNat - 'a'.toNat + 10)
    else if 'A' ≤ c ∧ c ≤ 'F' then some (c.toNat - 'A'.toNat + 10)
    else none
  match v with
  | some n => if n < base then some n else none
  | none => none

/-- Digits after those read so far. -/
def readDigits (base : Nat) : Nat → List Char → Option Nat
  | acc, [] => some acc
  | acc, c :: cs =>
    match digitOf base c with
    | some d => readDigits base (acc * base + d) cs
    | none => none

/-- A decimal or `0x` hexadecimal number. -/
def readNumber : List Char → Option Nat
  | [] => none
  | '0' :: 'x' :: c :: cs => readDigits 16 0 (c :: cs)
  | c :: cs => readDigits 10 0 (c :: cs)

/-- The kind of an operand's place in a form: which symbols, and whether a pin's name, may stand there. -/
inductive OperandKind where
  | plain
  | voltage
  | laneMode
  | direction
  | pinLevel
  | group
  | bank
  | pin
deriving DecidableEq, Repr

/-- R97's symbolic operand values. -/
def symbolsOf : OperandKind → List (List Char × Nat)
  | .plain => []
  | .bank => []
  | .pin => []
  | .voltage => [("1v8".toList, 0), ("3v3".toList, 1)]
  | .laneMode => [("usb3".toList, 0), ("pcie2".toList, 1), ("pcie3x2".toList, 2)]
  | .direction => [("in".toList, 0), ("out".toList, 1)]
  | .pinLevel => [("low".toList, 0), ("high".toList, 1)]
  | .group => [("sd".toList, 0), ("emmc".toList, 1), ("pcie3x2".toList, 2), ("pcie2".toList, 3), ("i2c0".toList, 4)]

/-- The text up to the first character satisfying `stop`, and the text after that character. -/
def splitAtChar (stop : Char → Bool) : List Char → List Char × Option (List Char)
  | [] => ([], none)
  | c :: cs =>
    if stop c then ([], some cs)
    else
      let r := splitAtChar stop cs
      (c :: r.1, r.2)

/-- The parts of a text between separators; `acc` is the current part, reversed. -/
def splitOn (sep : Char) : List Char → List Char → List (List Char)
  | acc, [] => [acc.reverse]
  | acc, c :: cs => if c == sep then acc.reverse :: splitOn sep [] cs else splitOn sep (c :: acc) cs

/-- The indices of a name, each still with its closing bracket: decimal digits, at least one, then `]`. -/
def readIndices : List (List Char) → Option (List Nat)
  | [] => some []
  | t :: ts =>
    match t.reverse with
    | ']' :: d :: ds =>
      match readDigits 10 0 (d :: ds).reverse, readIndices ts with
      | some n, some ns => some (n :: ns)
      | _, _ => none
    | _ => none

/-- A parameter's name in its parts: `P_TRIM[3].reg` is `P_TRIM`, [3], `reg`. DESIGN CHOICE (log 21): the grammar is the
model's, and what does not match it (an empty index, a second field) is no name. -/
def nameParts (cs : List Char) : Option (List Char × List Nat × Option (List Char)) :=
  match splitOn '.' [] cs with
  | [] => none
  | whole :: fields =>
    match splitOn '[' [] whole with
    | [] => none
    | base :: rest =>
      match readIndices rest, fields with
      | some is, [] => some (base, is, none)
      | some is, [field] => some (base, is, some field)
      | _, _ => none

/-- What a list of named things holds under a name. -/
def lookupName {α : Type} (table : List (String × α)) (name : List Char) : Option α :=
  (table.find? (fun e => e.1.toList == name)).map (fun e => e.2)

/-- R10's parameters that are one number, and the clock-request pins as bank and pin (R126, R169). -/
def scalarParams (cfg : Params) (planLen : Byte) : List (String × List Nat) :=
  [("P_BUS", [cfg.bus]), ("P_PMIC_ADDR", [cfg.pmicAddr.toNat]), ("PMIC_ID_HI_REG", [pmicIdHiReg.toNat]),
   ("PMIC_ID_LO_REG", [pmicIdLoReg.toNat]), ("PMIC_EXPECTED_NAME", [pmicExpectedName.toNat]),
   ("P_PCIE_LANE_MODE", [cfg.pcieLaneMode.toNat]), ("P_NUM_GROUPS", [cfg.pinGroups.length]),
   ("P_NUM_BANKS", [cfg.numBanks]), ("P_PINS_PER_BANK", [cfg.pinsPerBank]), ("P_NUM_FUNCS", [cfg.numFuncs]),
   ("P_DRIVE_LEVELS", [cfg.driveLevels]), ("P_NUM_LANES", [cfg.numLanes]), ("P_BUS_TIMEOUT", [cfg.busTimeout]),
   ("P_PLAN_LEN", [planLen.toNat]), ("P_CLKREQ_A", [cfg.clkReqA.1.toNat, cfg.clkReqA.2.toNat]),
   ("P_CLKREQ_B", [cfg.clkReqB.1.toNat, cfg.clkReqB.2.toNat])]

/-- The fields of a masked-write parameter. -/
def maskedFields (c : MaskedConst) : List (String × Nat) :=
  [("addr", c.addr.toNat), ("mask", c.mask.toNat), ("value", c.value.toNat)]

/-- The fields of a clock-request pin. -/
def pinFields (bp : Byte × Byte) : List (String × Nat) := [("bank", bp.1.toNat), ("pin", bp.2.toNat)]

/-- R10's parameters with named fields. -/
def recordParams (cfg : Params) : List (String × List (String × Nat)) :=
  [("P_PLL", maskedFields cfg.pll), ("P_IOMUX", maskedFields cfg.iomux),
   ("P_CLKREQ_A", pinFields cfg.clkReqA), ("P_CLKREQ_B", pinFields cfg.clkReqB)]

/-- R10's indexed parameters, each member with its named fields. -/
def arrayParams (cfg : Params) : List (String × List (List (String × Nat))) :=
  [("P_TRIM", cfg.trim.toList.map (fun p => [("reg", p.1.toNat), ("value", p.2.toNat)])),
   ("P_ENABLE", cfg.enable.toList.map (fun p => [("reg", p.1.toNat), ("mask", p.2.toNat)])),
   ("P_SWCFG", cfg.swcfg.toList.map (fun p => [("reg", p.1.toNat), ("value", p.2.toNat)])),
   ("P_DOMAINS", cfg.domains.toList.map (fun p => [("id", p.1.toNat), ("level", p.2.code.toNat)])),
   ("P_CLKGATE", cfg.clkGate.toList.map (fun p => [("addr", p.1.toNat), ("value", p.2.toNat)]))]

/-- The operand values a parameter's name stands for. A parameter that is no number has none (log 21). -/
def paramValues (cfg : Params) (planLen : Byte) (text : List Char) : Option (List Nat) :=
  match nameParts text with
  | some (base, [], none) => lookupName (scalarParams cfg planLen) base
  | some (base, [], some field) =>
    ((lookupName (recordParams cfg) base).bind (fun fields => lookupName fields field)).map (fun n => [n])
  | some (base, [i], some field) =>
    (((lookupName (arrayParams cfg) base).bind (fun members => members[i]?)).bind
      (fun fields => lookupName fields field)).map (fun n => [n])
  | some (base, [g, i], none) =>
    if base = "P_PIN_GROUPS".toList then
      ((cfg.pinGroups[g]?).bind (fun ds => ds[i]?)).map (fun d => [(wordStored d).toNat])
    else none
  | _ => none

/-- One operand's text as the values it stands for: a number, a symbol of its place's kind, or a parameter's name. -/
def operandValues (cfg : Params) (planLen : Byte) (kind : OperandKind) (text : List Char) : Option (List Nat) :=
  match readNumber text with
  | some n => some [n]
  | none =>
    match (symbolsOf kind).find? (fun e => e.1 == text) with
    | some e => some [e.2]
    | none => paramValues cfg planLen text

/-- Whether a text's values may stand from the next place on. One value may stand anywhere. DESIGN CHOICE (log 21): the two of a
clock-request pin's name stand only where a form has its bank and then its pin, as R169 writes them. -/
def placesFit (kinds : List OperandKind) (values : List Nat) : Bool :=
  values.length == 1 || (values.length == 2 && kinds.take 2 == [.bank, .pin])

/-- The operands' texts against the kinds of the form's places. -/
def operandList (cfg : Params) (planLen : Byte) : List OperandKind → List (List Char) → Except AsmError (List Nat)
  | [], [] => .ok []
  | _ :: _, [] => .error .operandCount
  | kinds, t :: ts =>
    match kinds.head? with
    | none => .error .operandCount
    | some k =>
      match operandValues cfg planLen k t with
      | none => .error .unknownOperand
      | some vs =>
        if placesFit kinds vs then (operandList cfg planLen (kinds.drop vs.length) ts).map (fun rest => vs ++ rest)
        else .error .unknownOperand

/-! ## Lines -/

/-- Without leading and trailing spaces. -/
def trimmed (cs : List Char) : List Char :=
  ((cs.dropWhile (fun c => c == ' ')).reverse.dropWhile (fun c => c == ' ')).reverse

/-- A line's mnemonic and its operands' texts (R97). -/
def lineParts (line : List Char) : List Char × List (List Char) :=
  let parts := splitAtChar (fun c => c == ' ') (trimmed line)
  match parts.2 with
  | none => (parts.1, [])
  | some rest => (parts.1, (splitOn ',' [] rest).map trimmed)

/-- A form of R97 or R98: its mnemonic, the kinds of its operands' places, and the line it stands for. -/
structure AsmForm where
  mnemonic : String
  kinds : List OperandKind
  build : List Nat → Option Asm

/-- The forms of R97 and R98. -/
def asmForms : List AsmForm :=
  [⟨"mwr", [.plain, .plain, .plain], fun | [a, m, v] => some (.mwr a m v) | _ => none⟩,
   ⟨"wr32", [.plain, .plain], fun | [a, d] => some (.wr32 a d) | _ => none⟩,
   ⟨"domset", [.plain, .voltage], fun | [d, l] => some (.domset d l) | _ => none⟩,
   ⟨"busrd", [.plain, .plain, .plain], fun | [d, r, i] => some (.busrd d r i) | _ => none⟩,
   ⟨"buswr", [.plain, .plain, .plain], fun | [d, r, v] => some (.buswr d r v) | _ => none⟩,
   ⟨"idchk", [.plain], fun | [n] => some (.idchk n) | _ => none⟩,
   ⟨"lanesel", [.plain, .laneMode], fun | [l, m] => some (.lanesel l m) | _ => none⟩,
   ⟨"pingrp", [.group], fun | [g] => some (.pingrp g) | _ => none⟩,
   ⟨"gpiodir", [.bank, .pin, .direction], fun | [b, p, d] => some (.gpiodir b p d) | _ => none⟩,
   ⟨"gpiowr", [.bank, .pin, .pinLevel], fun | [b, p, l] => some (.gpiowr b p l) | _ => none⟩,
   ⟨"end", [], fun | [] => some .endPlan | _ => none⟩,
   ⟨"identify", [.plain, .plain], fun | [d, n] => some (.identify d n) | _ => none⟩,
   ⟨"gpio_out_high", [.bank, .pin], fun | [b, p] => some (.gpioOutHigh b p) | _ => none⟩,
   ⟨"gpio_out_low", [.bank, .pin], fun | [b, p] => some (.gpioOutLow b p) | _ => none⟩,
   ⟨"mwr_field", [.plain, .plain, .plain, .plain], fun | [a, h, l, v] => some (.mwrField a h l v) | _ => none⟩]

/-- A line of text as the form it is (R97 to R99). -/
def parseLine (cfg : Params) (planLen : Byte) (line : List Char) : Except AsmError Asm :=
  match lineParts line with
  | (mnemonic, texts) =>
    if mnemonic = "rmw".toList then .ok .rmw
    else
      match asmForms.find? (fun f => f.mnemonic.toList == mnemonic) with
      | none => .error .unknownMnemonic
      | some f =>
        match operandList cfg planLen f.kinds texts with
        | .error e => .error e
        | .ok vs =>
          match f.build vs with
          | some a => .ok a
          | none => .error .operandCount

/-- A line of text as the instructions it stands for. -/
def assembleLine (cfg : Params) (planLen : Byte) (line : List Char) : Except AsmError (List Instr) :=
  match parseLine cfg planLen line with
  | .ok a => assemble a
  | .error e => .error e

/-- A plan's text, one line each, as its instructions. -/
def assembleText (cfg : Params) (planLen : Byte) : List (List Char) → Except AsmError (List Instr)
  | [] => .ok []
  | l :: ls =>
    match assembleLine cfg planLen l with
    | .error e => .error e
    | .ok is => (assembleText cfg planLen ls).map (fun rest => is ++ rest)

end Sys2Proof.Machine
end

