-- ==== Sys2Proof/Machine/Admission.lean ====
section
/-! DEFINITION. The plan admission checks of 70_reset_and_hazards.md R206 to R216: static, over the plan text and the
parameters. Each gives the first pc that fails it; which command of an offending pair fails is a DESIGN CHOICE (log 20). They are no part of a step (R206: "The dynamic faults ... remain
the machine's total semantics for any plan"); `State.launchRun` is where an unadmitted plan is refused (log 25). -/

namespace Sys2Proof.Machine

/-- The plan's commands as the decoder reads them from the ROM; `none` where a command does not decode. -/
def State.planText (s : State) : List (Option Instr) :=
  (List.range s.planLen.toNat).map (fun k =>
    match decode (s.commandBytes k) with
    | .ok i => some i
    | .error _ => none)

/-! ## Looking at a plan -/

/-- Some command before pc `i` satisfies `f`. -/
def hasBefore (plan : List (Option Instr)) (i : Nat) (f : Instr → Bool) : Bool :=
  (plan.take i).any (fun c => c.any f)

/-- Some command at pc `i` or later satisfies `f`. -/
def hasFrom (plan : List (Option Instr)) (i : Nat) (f : Instr → Bool) : Bool :=
  (plan.drop i).any (fun c => c.any f)

/-- The command at pc `i`, where there is one that decodes. -/
def commandAt (plan : List (Option Instr)) (i : Nat) : Option Instr := plan[i]?.join

/-- The command at pc `i` satisfies `f`. -/
def isAt (plan : List (Option Instr)) (i : Nat) (f : Instr → Bool) : Bool := (commandAt plan i).any f

/-- In how many ways the pattern's commands occur in the plan in that order, not necessarily next to each other. -/
def countSeq : List Instr → List (Option Instr) → Nat
  | [], _ => 1
  | _ :: _, [] => 0
  | p :: ps, c :: cs => countSeq (p :: ps) cs + if c = some p then countSeq ps cs else 0

/-- The first pc below `n` at which `bad` holds. -/
def firstBad (n : Nat) (bad : Nat → Bool) : Option Nat := (List.range n).find? bad

/-! ## Kinds of command -/

/-- A BUSWR to the regulator whose register satisfies `f`. -/
def isPmicWrite (cfg : Params) (f : Byte → Bool) : Instr → Bool
  | .buswr dev reg _ => decide (dev = cfg.pmicAddr) && f reg
  | _ => false

def isTrimReg (cfg : Params) (reg : Byte) : Bool := cfg.trim.toList.any (fun p => p.1 == reg)
def isEnableReg (cfg : Params) (reg : Byte) : Bool := cfg.enable.toList.any (fun p => p.1 == reg)
def isConfigReg (cfg : Params) (reg : Byte) : Bool := cfg.swcfg.toList.any (fun p => p.1 == reg)

/-- A bus command: BUSRD or BUSWR, as R216 lists them (log 20). -/
def isBusCommand : Instr → Bool
  | .busrd _ _ _ => true
  | .buswr _ _ _ => true
  | _ => false

def isDomset : Instr → Bool
  | .domset _ _ => true
  | _ => false

/-- A clock-gate WR32 or the PLL MWR (R209). -/
def isClockWrite (cfg : Params) : Instr → Bool
  | .wr32 addr _ => cfg.clkGate.toList.any (fun c => c.1 == addr)
  | .mwr addr _ _ => addr == cfg.pll.addr
  | _ => false

def isLaneselOf (lane : Byte) : Instr → Bool
  | .lanesel l _ => l == lane
  | _ => false

def isDomsetOf (dom : Byte) : Instr → Bool
  | .domset d _ => d == dom
  | _ => false

def isPingrpOf (g : Byte) : Instr → Bool
  | .pingrp h => h == g
  | _ => false

/-- A GPIO command on one of the two clock-request pins. -/
def isClkReqGpio (cfg : Params) : Instr → Bool
  | .gpiodir b p _ => (b, p) == cfg.clkReqA || (b, p) == cfg.clkReqB
  | .gpiowr b p _ => (b, p) == cfg.clkReqA || (b, p) == cfg.clkReqB
  | _ => false

/-- `P_GROUP_LANE(g)` (R149). -/
def lanesOf (cfg : Params) (g : Byte) : List Byte :=
  match cfg.groupLane.find? (fun e => e.1 == g) with
  | some e => e.2
  | none => []

/-- R90's range checks and R92's group check on one command. -/
def commandInRange (cfg : Params) : Instr → Bool
  | .pingrp g =>
    match groupOf cfg g with
    | some ds => groupWf cfg ds
    | none => false
  | .gpiodir b p _ => pinInRange cfg b p
  | .gpiowr b p _ => pinInRange cfg b p
  | .lanesel l _ => decide (l.toNat < cfg.numLanes)
  | _ => true

/-! ## The checks -/

/-- R207, CHK_LANE_BEFORE_PINS; the PINGRP fails (log 20). -/
def chkLaneBeforePins (cfg : Params) (plan : List (Option Instr)) : Option Nat :=
  firstBad plan.length (fun i =>
    match commandAt plan i with
    | some (.pingrp g) => (lanesOf cfg g).any (fun l => !hasBefore plan i (isLaneselOf l))
    | _ => false)

/-- R208, CHK_REGULATOR_ORDER: no trim write at or after an enable write, no enable write at or after a config
write. The later of the two fails, the trim or enable write (log 20). -/
def chkRegulatorOrder (cfg : Params) (plan : List (Option Instr)) : Option Nat :=
  firstBad plan.length (fun i =>
    (isAt plan i (isPmicWrite cfg (isTrimReg cfg)) && hasBefore plan (i + 1) (isPmicWrite cfg (isEnableReg cfg)))
    || (isAt plan i (isPmicWrite cfg (isEnableReg cfg)) && hasBefore plan (i + 1) (isPmicWrite cfg (isConfigReg cfg))))

/-- R209, CHK_RAILS_BEFORE_CLOCKS. DESIGN CHOICE (log 20): of an out-of-order pair the later command fails, the DOMSET or BUSWR,
not the clock write or bus command before it. -/
def chkRailsBeforeClocks (cfg : Params) (plan : List (Option Instr)) : Option Nat :=
  firstBad plan.length (fun i =>
    (isAt plan i (fun c => isDomset c || isPmicWrite cfg (fun _ => true) c) && hasBefore plan i (isClockWrite cfg))
    || (isAt plan i isDomset && hasBefore plan i isBusCommand))

/-- R210, CHK_GPIO_ORDER; the clock-request clause for any plan as log 18 says. The GPIO command fails, not the GPIODIR or
PINGRP it lacks or precedes (log 20). -/
def chkGpioOrder (cfg : Params) (plan : List (Option Instr)) : Option Nat :=
  firstBad plan.length (fun i =>
    (match commandAt plan i with
      | some (.gpiowr b p _) => i == 0 || commandAt plan (i - 1) != some (.gpiodir b p .output)
      | _ => false)
    || (isAt plan i (isClkReqGpio cfg)
      && hasFrom plan i (fun c => isPingrpOf groupPcie2 c || isPingrpOf groupPcie3x2 c)))

/-- R211, CHK_IDENTIFY_FIRST; the BUSWR fails (log 20). -/
def chkIdentifyFirst (cfg : Params) (plan : List (Option Instr)) : Option Nat :=
  firstBad plan.length (fun i =>
    isAt plan i (isPmicWrite cfg (fun _ => true))
    && countSeq (identifySeq cfg.pmicAddr pmicExpectedName) (plan.take i) == 0)

/-- R212, CHK_ONCE. DESIGN CHOICE (log 19): which identify sequences count (those of P_PMIC_ADDR with the name 0x809, R211's,
not every one R98 can write), how they are counted, and the pc named where there is none. Of two commands for one lane, domain or register the later
fails (log 20). -/
def chkOnce (cfg : Params) (plan : List (Option Instr)) : Option Nat :=
  firstBad (plan.length + 1) (fun i =>
    (match commandAt plan i with
      | some (.lanesel l _) => hasBefore plan i (isLaneselOf l)
      | some (.domset d _) => hasBefore plan i (isDomsetOf d)
      | some (.buswr dev reg _) => decide (dev = cfg.pmicAddr) && hasBefore plan i (isPmicWrite cfg (fun r => r == reg))
      | _ => false)
    || decide (2 ≤ countSeq (identifySeq cfg.pmicAddr pmicExpectedName) (plan.take (i + 1)))
    || (i == plan.length && countSeq (identifySeq cfg.pmicAddr pmicExpectedName) plan == 0))

/-- R213, CHK_MWR_TARGET. -/
def chkMwrTarget (cfg : Params) (plan : List (Option Instr)) : Option Nat :=
  firstBad plan.length (fun i =>
    match commandAt plan i with
    | some (.mwr addr _ _) => regKindOf cfg addr == .plain || !aligned addr
    | some (.wr32 addr _) => !aligned addr
    | _ => false)

/-- R214, CHK_ID_READONLY. -/
def chkIdReadonly (cfg : Params) (plan : List (Option Instr)) : Option Nat :=
  firstBad plan.length (fun i => isAt plan i (isPmicWrite cfg isIdReg))

/-- R215, CHK_WELLFORMED. An empty plan fails at pc 0, and one of more than 255 commands at pc 255 or before. -/
def chkWellformed (cfg : Params) (plan : List (Option Instr)) : Option Nat :=
  if plan.length = 0 then some 0
  else firstBad plan.length (fun i =>
    match commandAt plan i with
    | none => true
    | some c => decide (maxPlanLen ≤ i) || !commandInRange cfg c || ((c == .endPlan) != (i + 1 == plan.length)))

/-- R216, CHK_BUS_PINS; the bus command fails (log 20). -/
def chkBusPins (cfg : Params) (plan : List (Option Instr)) : Option Nat :=
  if cfg.premI2cPins then none
  else firstBad plan.length (fun i => isAt plan i isBusCommand && !hasBefore plan i (isPingrpOf groupI2c0))

/-- R206: the first check the plan fails, in the order of R207 to R216, with the failing pc. -/
def admission (cfg : Params) (plan : List (Option Instr)) : Option (Check × Nat) :=
  [(Check.laneBeforePins, chkLaneBeforePins cfg plan), (.regulatorOrder, chkRegulatorOrder cfg plan),
   (.railsBeforeClocks, chkRailsBeforeClocks cfg plan), (.gpioOrder, chkGpioOrder cfg plan),
   (.identifyFirst, chkIdentifyFirst cfg plan), (.once, chkOnce cfg plan), (.mwrTarget, chkMwrTarget cfg plan),
   (.idReadonly, chkIdReadonly cfg plan), (.wellformed, chkWellformed cfg plan), (.busPins, chkBusPins cfg plan)].findSome?
    (fun r => r.2.map (fun pc => (r.1, pc)))

/-- PREM_ADMITTED (R203): the state's plan passes every check. -/
def State.admitted (s : State) : Bool := (admission s.cfg s.planText).isNone

/-- R206: a run is started only of an admitted plan; otherwise it is refused, naming the check and the failing pc. -/
def State.launchRun (s : State) : Host.Outcome State Fault Refusal :=
  match admission s.cfg s.planText with
  | some (check, pc) => .refused (.notAdmitted check pc)
  | none => .next { s with host := [.start 0] }

/-! ## The parameters' own constraints -/

/-- The ranges R10 and R93 give the parameters. -/
def paramsInRange (cfg : Params) : Bool :=
  decide (cfg.numBanks ≤ 256) && decide (cfg.pinsPerBank ≤ 256) && decide (cfg.numFuncs ≤ 16)
    && decide (cfg.driveLevels ≤ 15) && decide (3 ≤ cfg.numLanes) && decide (cfg.numLanes ≤ 256)
    && decide (5 ≤ cfg.pinGroups.length) && cfg.pinGroups.all (fun ds => decide (ds.length ≤ 255))
    && (cfg.pcieLaneMode == LaneMode.pcieGen2 || cfg.pcieLaneMode == LaneMode.pcieGen3x2)

/-- The kinds the spec states of the board's own registers: `P_REGKIND(P_PLL.addr)` must be Masked (R107), the IOMUX register has
the masked convention (R191, R109), and the clock-gate registers are Plain (R56, R191). DESIGN CHOICE (log 28): R217 allows
Unmodelled for the first two, and here they are held to R107's and R191's Masked. -/
def boardKinds (cfg : Params) : Bool :=
  regKindOf cfg cfg.pll.addr == .masked && regKindOf cfg cfg.iomux.addr == .masked && cfg.clkGate.toList.all (fun c => regKindOf cfg c.1 == .plain)

/-- All that R10, R56, R93, R107 and R191 state of the parameters. -/
def paramsLegal (cfg : Params) : Bool := paramsInRange cfg && boardKinds cfg

/-- R217's constraints, under which (with `paramsInRange`) the board plan passes every check. R217's list does not name the
ranges of the pins (R90) and groups (R92) that the board plan uses, which its R215 asks for: log 28. -/
def boardConstraints (cfg : Params) : Bool :=
  decide ((cfg.domains.toList.map (fun d => d.1)).Nodup)
    && regKindOf cfg cfg.pll.addr != .plain && regKindOf cfg cfg.iomux.addr != .plain
    && aligned cfg.pll.addr && aligned cfg.iomux.addr && cfg.clkGate.toList.all (fun c => aligned c.1)
    && decide (((cfg.trim.toList ++ cfg.enable.toList ++ cfg.swcfg.toList).map (fun p => p.1)).Nodup)
    && (cfg.trim.toList ++ cfg.enable.toList ++ cfg.swcfg.toList).all (fun p => !isIdReg p.1)
    && lanesOf cfg groupPcie3x2 == [2] && lanesOf cfg groupPcie2 == [2] && lanesOf cfg groupSd == []
    && lanesOf cfg groupEmmc == [] && lanesOf cfg groupI2c0 == [] && cfg.premI2cPins
    && [groupSd, groupEmmc, groupPcie3x2, groupPcie2].all (fun g => commandInRange cfg (.pingrp g))
    && pinInRange cfg cfg.clkReqA.1 cfg.clkReqA.2 && pinInRange cfg cfg.clkReqB.1 cfg.clkReqB.2

end Sys2Proof.Machine
end

