-- ==== Sys2Proof/Safety.lean ====
section
/-! DEFINITION. The terms claims are made in: when a state's next step is the coordinator's own, what a launch is (R202), what
a fault leaves, what a store does, and the invariants of the machine. -/

namespace Sys2Proof.Safety

open Sys2Proof.Machine

/-! ## Where a run stands -/

/-- The block is in Run and the host does nothing before its next step (R157). -/
def Running (s : State) : Prop := s.st = .run ∧ s.host = []

/-- The host's next input resets the block: a block reset or a launch (R202). -/
def ResetNext (s : State) : Prop := s.host.head? = some .reset ∨ ∃ x, s.host.head? = some (.launch x)

/-- The block rows of R200 that the spec gives a value: everything of the block but the data of the captures. -/
def BlockAtReset (s : State) : Prop :=
  s.st = .idle ∧ s.pc = 0 ∧ s.cause = 0 ∧ s.capValid 0 = false ∧ s.capValid 1 = false ∧ s.chipName = 0 ∧ s.chipVer = 0
    ∧ s.laneSel = 0 ∧ s.domSet = 0 ∧ s.log = []

/-- `t` is `s` after a fault with code `c` of R177 that has no other effect: the cause is recorded and the run has ended
(R158). -/
def FaultedOnly (c : BitVec 4) (s t : State) : Prop := t = { s with cause := c, st := .doneFail }

/-! ## Effects shared by several commands -/

/-- The effect of storing `w` at an aligned `addr` (20_memory.md R55 to R57; 40_masked_writer.md R101, R104): by the register's
kind its cell changes, every other byte of the mirror reads as before, one event is logged, `pc` advances, and
nothing else changes. -/
def Stored (addr w : Word) (s t : State) : Prop :=
  t = { s with mem := t.mem, pc := s.pc + 1, log := s.log ++ [.mmioWr addr w] }
  ∧ (regKindOf s.cfg addr = .masked →
      (∀ b, b < 16 → (t.mreg addr).getLsbD b
        = if w.getLsbD (16 + b) then w.getLsbD b else (s.mreg addr).getLsbD b)
      ∧ ∀ a, a ≠ addr.toNat → a ≠ addr.toNat + 1 → t.mmioByte a = s.mmioByte a)
  ∧ (regKindOf s.cfg addr = .plain →
      t.preg addr = w ∧ ∀ a, a < addr.toNat ∨ addr.toNat + 4 ≤ a → t.mmioByte a = s.mmioByte a)
  ∧ (regKindOf s.cfg addr = .unmodelled → ∀ a, t.mmioByte a = s.mmioByte a)

/-! ## Invariants -/

/-- Every table of the state is in its canonical form. -/
def Canonical (s : State) : Prop :=
  Memory.wf s.mem = true ∧ Memory.wf s.pmic = true ∧ sparseWf Config.unlistedPin s.pins = true
    ∧ sparseWf Config.unlistedMode s.laneMode = true ∧ sparseWf Config.unlistedLevel s.domLevel = true
    ∧ Memory.wf s.planRom = true

/-- The mirror holds entries only where the spec has a location: a listed MMIO byte belongs to a Masked register's 16-bit
cell or a Plain register's 32-bit cell (R33, R57, R102), and every other table's keys fit their fields (R47 to R50). -/
def MirrorInRange (s : State) : Prop :=
  (∀ e ∈ s.mem, ∃ addr : Word, aligned addr = true ∧ addr.toNat ≤ e.1 ∧
    ((regKindOf s.cfg addr = .masked ∧ e.1 < addr.toNat + 2) ∨ (regKindOf s.cfg addr = .plain ∧ e.1 < addr.toNat + 4)))
  ∧ (∀ e ∈ s.pmic, e.1 < 256) ∧ (∀ e ∈ s.pins, e.1 < 65536) ∧ (∀ e ∈ s.laneMode, e.1 < 256)
  ∧ (∀ e ∈ s.domLevel, e.1 < 256)

/-- R26, R177: `cause` is 0 but in DoneFail, and there it is one of the codes 1 to 10. -/
def CauseLegal (s : State) : Prop :=
  (s.st = .doneFail → 1 ≤ s.cause.toNat ∧ s.cause.toNat ≤ 10) ∧ (s.st ≠ .doneFail → s.cause = 0)

/-- R155, R202: in Idle the block is as reset leaves it. -/
def IdleFresh (s : State) : Prop := s.st = .idle → BlockAtReset s

/-- R24: `pc` never passes the end of the plan. -/
def PcInPlan (s : State) : Prop := s.pc.toNat ≤ s.planLen.toNat

/-- R203, R206, R215: the plan is admitted, an Idle block is as reset leaves it, and a run stands within the plan. -/
def AdmittedRun (s : State) : Prop :=
  s.admitted = true ∧ IdleFresh s ∧ (s.st = .run → s.pc < s.planLen)

/-- An event that selects lane `l`, whatever its answer. -/
def isLaneEvent (l : Byte) : Event → Bool
  | .laneSel l' _ _ => l' == l
  | _ => false

/-- An event that sets domain `d`, whatever its answer. -/
def isDomEvent (d : Byte) : Event → Bool
  | .domSet d' _ _ => d' == d
  | _ => false

/-- An event whose call was answered `Err`. -/
def isErrEvent : Event → Bool
  | .domSet _ _ r => r == .err
  | .busRd _ _ r => r == .err
  | .busWr _ _ _ r => r == .err
  | .laneSel _ _ r => r == .err
  | _ => false

/-- R179, R182: what a fault leaves of `s`, by its kind; `runs i` says that the faulting command is `i`. A fault of checks 1 to
5 has no effect; ID_MISMATCH leaves only the identity; a fault of the primitive's answer leaves its `Err` event and at
most the mirror entry that the call addressed, and uses an answer up (the model's own fields: log 3). -/
def PreciseFault (runs : Instr → Prop) (s t : State) : Prop :=
  (t.cause.toNat ∈ [5, 6, 7, 8, 9, 10] ∧ FaultedOnly t.cause s t)
  ∨ (t.cause = 2 ∧ t = { s with st := .doneFail, cause := 2, chipName := t.chipName, chipVer := t.chipVer })
  ∨ (t.cause.toNat ∈ [1, 3, 4]
    ∧ (∃ e, isErrEvent e = true ∧ t = { s with
        st := .doneFail, cause := t.cause, log := s.log ++ [e], answers := s.answers.tail, calls := s.calls + 1,
        pmic := t.pmic, laneMode := t.laneMode, domLevel := t.domLevel })
    ∧ (∀ r, (∀ data, ¬ runs (.buswr s.cfg.pmicAddr r data)) → t.pmicReg r = s.pmicReg r)
    ∧ (∀ l, (∀ m, ¬ runs (.lanesel l m)) → t.modeOf l = s.modeOf l)
    ∧ ∀ d, (∀ v, ¬ runs (.domset d v)) → t.levelOf d = s.levelOf d)

/-- R31, R32, R145, R152 over the log: a lane is in `laneSel` exactly when a select of it succeeded, a domain in `domSet` exactly
when a set of it succeeded; no lane and no domain is called for twice; and until the run has failed no call has
been answered `Err`. -/
def OneShot (s : State) : Prop :=
  (∀ l : Byte, s.laneTaken l = true ↔ ∃ m, Event.laneSel l m .ok ∈ s.log)
  ∧ (∀ d : Byte, s.domTaken d = true ↔ ∃ v, Event.domSet d v .ok ∈ s.log)
  ∧ (∀ l : Byte, (s.log.filter (isLaneEvent l)).length ≤ 1)
  ∧ (∀ d : Byte, (s.log.filter (isDomEvent d)).length ≤ 1)
  ∧ (s.st ≠ .doneFail → ∀ e ∈ s.log, isErrEvent e = false)

/-- R36, R37, R39: the mode of a selected lane and the level of a set domain are those of their logged calls, and a valid
capture holds a byte that a logged read returned (R21). -/
def MirrorAgrees (s : State) : Prop :=
  (∀ l m, Event.laneSel l m .ok ∈ s.log → s.modeOf l = m)
  ∧ (∀ d v, Event.domSet d v .ok ∈ s.log → s.levelOf d = v)
  ∧ ∀ idx, s.capValid idx = true → ∃ dev reg, Event.busRd dev reg (.ok (s.cap idx)) ∈ s.log

/-- A launch (R202): a block reset with the external hardware at its own reset, whatever that holds; no run has been since
(R222; log 27). -/
def Launch (s : State) : Prop := BlockAtReset s ∧ Canonical s ∧ s.launched = true

end Sys2Proof.Safety
end

