-- ==== Sys2Proof/Certificates/Slice0/Obligations.lean ====
section
/-! DEFINITION. The statements for the provers. Each docstring names the rules of spec/ it rests on. A frame is written
`t = { s with … }`: every field not named there is unchanged. -/

open Sys2Proof Sys2Proof.Machine Sys2Proof.Safety

/-! ## Encoding -/

/-- 30_encoding.md R76 to R89: decoding the bytes of a well-formed instruction's encoding gives the instruction back, with
every operand at every value its field admits. -/
def Obligations.DecodeOfEncodedInstruction : Prop :=
  ∀ i : Instr, i.wf = true → decode (encodeBytes i) = .ok i

/-- 30_encoding.md R77, R81: a command that decodes is the encoding of what it decodes to, so no bit of a command is ignored
and every instruction has one encoding. -/
def Obligations.EveryCommandHasOneEncoding : Prop :=
  ∀ (k : Command) (i : Instr), decodeCommand k = .ok i → i.wf = true ∧ encode i = k

/-- 30_encoding.md R80: the match and mask of each command, written out; LANESEL's B = 3 is its reserved value. -/
def Obligations.DecoderFollowsMatchAndMask : Prop :=
  ∀ k : Command,
    ((∃ addr mask value, decodeCommand k = .ok (.mwr addr mask value))
      ↔ k &&& 0x0000000000000000FFFFFFFF = 0x000000000000000000000001)
    ∧ ((∃ addr data, decodeCommand k = .ok (.wr32 addr data))
      ↔ k &&& 0x0000000000000000FFFFFFFF = 0x000000000000000000000002)
    ∧ ((∃ dom lvl, decodeCommand k = .ok (.domset dom lvl))
      ↔ k &&& 0xFFFFFFFFFFFFFFFFFFFE00FF = 0x000000000000000000000003)
    ∧ ((∃ dev reg idx, decodeCommand k = .ok (.busrd dev reg idx))
      ↔ k &&& 0xFFFFFFFFFFFFFFFFFE0080FF = 0x000000000000000000000004)
    ∧ ((∃ dev reg data, decodeCommand k = .ok (.buswr dev reg data))
      ↔ k &&& 0xFFFFFFFFFFFFFFFF000080FF = 0x000000000000000000000005)
    ∧ ((∃ expected, decodeCommand k = .ok (.idchk expected))
      ↔ k &&& 0xFFFFFFFFFFFFF000FFFFFFFF = 0x000000000000000000000006)
    ∧ ((∃ lane mode, decodeCommand k = .ok (.lanesel lane mode))
      ↔ k &&& 0xFFFFFFFFFFFFFFFFFFFC00FF = 0x000000000000000000000007 ∧ k.extractLsb' 16 8 ≠ 3)
    ∧ ((∃ g, decodeCommand k = .ok (.pingrp g))
      ↔ k &&& 0xFFFFFFFFFFFFFFFFFFFF00FF = 0x000000000000000000000008)
    ∧ ((∃ bank pin dir, decodeCommand k = .ok (.gpiodir bank pin dir))
      ↔ k &&& 0xFFFFFFFFFFFFFFFFFE0000FF = 0x000000000000000000000009)
    ∧ ((∃ bank pin level, decodeCommand k = .ok (.gpiowr bank pin level))
      ↔ k &&& 0xFFFFFFFFFFFFFFFFFE0000FF = 0x00000000000000000000000A)
    ∧ (decodeCommand k = .ok .endPlan
      ↔ k &&& 0xFFFFFFFFFFFFFFFFFFFFFFFF = 0x00000000000000000000000F)

/-- The worked examples of R101, R130 and R146, as the bytes the plan ROM holds (R53). -/
def Obligations.SpecExampleWordsDecode : Prop :=
  decode [0x01, 0, 0, 0, 0x00, 0x10, 0, 0, 0x5A, 0x0F, 0xF0, 0x00] = .ok (.mwr 0x00001000 0x00F0 0x0F5A)
    ∧ decode [0x04, 0x20, 0xED, 0, 0, 0, 0, 0, 0, 0, 0, 0] = .ok (.busrd 0x20 0xED 0)
    ∧ decode [0x07, 0x02, 0x01, 0, 0, 0, 0, 0, 0, 0, 0, 0] = .ok (.lanesel 2 LaneMode.pcieGen2)

/-- 20_memory.md R51, R53, 70_reset_and_hazards.md R215: a plan of up to 255 commands laid into the ROM is read back command by
command and its length is P_PLAN_LEN; a longer one is turned away. Loading is the model's own operation (log 2). -/
def Obligations.PlanRomHoldsTheLoadedPlan : Prop :=
  ∀ (s : State) (plan : List Instr),
    (plan.length ≤ 255 → (∀ i ∈ plan, i.wf = true) →
      ∃ t, s.loadPlan plan = .next t ∧ t.planText = plan.map some ∧ t.planLen.toNat = plan.length)
    ∧ (255 < plan.length → s.loadPlan plan = .refused (.notAdmitted .wellformed 255))

/-! ## The step -/

/-- 44_coordinator.md R157, R162 to R164: in Run, where the bytes at `pc` decode to an instruction, the step is that
instruction's meaning at that state; where the host's next input is to do nothing, at the state with that input
used up (log 9). -/
def Obligations.StepRunsDecodedInstruction : Prop :=
  ∀ (s : State) (i : Instr), s.st = .run → s.pc < s.planLen → decode s.fetch = .ok i →
    (s.host = [] → step s = exec i s)
    ∧ ∀ rest, s.host = .proceed :: rest → step s = exec i { s with host := rest }

/-- 44_coordinator.md R162: past the end of the plan PLAN_OVERRUN; otherwise the command is the three ROM words at `3 pc`, the
first lowest. -/
def Obligations.FetchReadsThreeWordsOrOverruns : Prop :=
  ∀ s : State, Running s →
    (s.planLen.toNat ≤ s.pc.toNat → ∃ t, step s = .next t ∧ FaultedOnly 7 s t)
    ∧ (s.pc.toNat < s.planLen.toNat → decode s.fetch
        = decodeCommand (s.romWord (3 * s.pc.toNat + 2) ++ s.romWord (3 * s.pc.toNat + 1) ++ s.romWord (3 * s.pc.toNat)))

/-- 44_coordinator.md R163: the command `k` fetched decodes by R81 and its instruction runs; where it does not decode, it
raises ILLEGAL_COMMAND with no other effect. -/
def Obligations.UndecodableCommandIsIllegal : Prop :=
  ∀ (s : State) (k : Command), Running s → s.pc < s.planLen → s.fetch = bytesOfCommand k →
    (∀ i, decodeCommand k = .ok i → step s = exec i s)
    ∧ ((∀ i, decodeCommand k ≠ .ok i) → ∃ t, step s = .next t ∧ FaultedOnly 5 s t)

/-- 30_encoding.md R94: each reserved opcode raises ILLEGAL_COMMAND, whatever the command's other bits. -/
def Obligations.ReservedOpcodesAreIllegal : Prop :=
  ∀ s : State, Running s → s.pc < s.planLen →
    (let op := (s.romByte (12 * s.pc.toNat)).toNat
     op = 0x00 ∨ (0x0B ≤ op ∧ op ≤ 0x0E) ∨ (0x10 ≤ op ∧ op ≤ 0xFF)) →
    ∃ t, step s = .next t ∧ FaultedOnly 5 s t

/-- 44_coordinator.md R160: in a terminal state `done` is 1 and no step but a reset is enabled; no other state is final: in
Run the coordinator always has its step, in Idle a start is accepted where no run has been since the launch (R222; the
model's record of that is log 27), and a launch has its step in every state (log 29). -/
def Obligations.TerminalStatesAreFinal : Prop :=
  (∀ s : State, s.st = .doneOk ∨ s.st = .doneFail → s.done = true ∧ ∀ t, step s = .next t → ResetNext s)
  ∧ (∀ s : State, Running s → s.done = false ∧ ∃ t, step s = .next t)
  ∧ (∀ (s : State) (ctx : Nat) (rest : List HostInput), s.st = .idle → s.launched = true → s.host = .start ctx :: rest →
      s.done = false ∧ ∃ t, step s = .next t)
  ∧ ∀ (s : State) (x : ExternalDraw) (rest : List HostInput), s.host = .launch x :: rest → ∃ t, step s = .next t

/-- 44_coordinator.md R155: start moves Idle to Run, with the reset values in the block, and changes only `st` (the host's
input, the model's own field, is used up: log 9), where no run has been since the launch (R222; log 27). -/
def Obligations.StartMovesIdleToRun : Prop :=
  ∀ (s : State) (ctx : Nat) (rest : List HostInput), IdleFresh s → s.st = .idle → s.launched = true →
    s.host = .start ctx :: rest →
    ∃ t, step s = .next t ∧ t = { s with st := .run, host := rest } ∧ t.pc = 0 ∧ t.cause = 0
      ∧ (∀ l, t.laneTaken l = false) ∧ (∀ d, t.domTaken d = false) ∧ (∀ idx, t.capValid idx = false) ∧ t.log = []

/-- 44_coordinator.md R156, 70_reset_and_hazards.md R222, 90_conflicts.md C9: outside Idle a start is refused; only reset returns
the block to Idle; and a second run needs a launch: a block that comes back to Idle from a run without one, and stays in
Idle without one, refuses a start. That the model records a launch is log 27. -/
def Obligations.OnlyResetReturnsToIdle : Prop :=
  (∀ (s : State) (ctx : Nat) (rest : List HostInput), s.st ≠ .idle → s.host = .start ctx :: rest →
    step s = .refused .startNotIdle)
  ∧ (∀ s t : State, step s = .next t → t.st = .idle → ResetNext s)
  ∧ (∀ (s : State) (ctx : Nat) (rest : List HostInput), s.st = .idle → s.launched = false → s.host = .start ctx :: rest →
    step s = .refused .secondRun)
  ∧ ∀ s t : State, step s = .next t → (∀ x, s.host.head? ≠ some (.launch x)) →
    s.st ≠ .idle ∨ s.launched = false → t.st = .idle → t.launched = false

/-- 60_exceptions.md R196, 70_reset_and_hazards.md R200, R202: a block reset, in any state, gives the block its reset values
and changes no external state, parameter or plan (log 10); a launch gives the block its reset values and every location of
the external hardware its draw, and changes no parameter or plan either (log 29). -/
def Obligations.BlockResetLeavesExternalState : Prop :=
  (∀ (s : State) (rest : List HostInput), s.host = .reset :: rest →
    ∃ t, step s = .next t ∧ BlockAtReset t ∧ t.host = rest
      ∧ (∀ a, t.mmioByte a = s.mmioByte a) ∧ (∀ r, t.pmicReg r = s.pmicReg r) ∧ (∀ b p, t.pin b p = s.pin b p)
      ∧ (∀ l, t.modeOf l = s.modeOf l) ∧ (∀ d, t.levelOf d = s.levelOf d)
      ∧ t.planRom = s.planRom ∧ t.planLen = s.planLen ∧ t.cfg = s.cfg)
  ∧ ∀ (s : State) (x : ExternalDraw) (rest : List HostInput), s.host = .launch x :: rest →
    ∃ t, step s = .next t ∧ BlockAtReset t ∧ t.launched = true ∧ t.host = rest
      ∧ (∀ addr : Word, addr.toNat % 4 = 0 → regKindOf s.cfg addr = .masked → ∀ k, k < 2 →
          t.mmioByte (addr.toNat + k) = sparseGet Config.unlistedByte x.mem (addr.toNat + k))
      ∧ (∀ addr : Word, addr.toNat % 4 = 0 → regKindOf s.cfg addr = .plain → ∀ k, k < 4 →
          t.mmioByte (addr.toNat + k) = sparseGet Config.unlistedByte x.mem (addr.toNat + k))
      ∧ (∀ r, t.pmicReg r = sparseGet Config.unlistedByte x.pmic r.toNat)
      ∧ (∀ b p, t.pin b p = sparseGet Config.unlistedPin x.pins (256 * b.toNat + p.toNat))
      ∧ (∀ l, t.modeOf l = sparseGet Config.unlistedMode x.laneMode l.toNat)
      ∧ (∀ d, t.levelOf d = sparseGet Config.unlistedLevel x.domLevel d.toNat)
      ∧ t.planRom = s.planRom ∧ t.planLen = s.planLen ∧ t.cfg = s.cfg

/-- 10_state.md R29: STATUS field by field, bits 3:2 reading 0, its reset value, and that a host's write is refused. -/
def Obligations.StatusWordFields : Prop :=
  (∀ s : State,
    s.status.extractLsb' 0 2
      = (match s.st with | .idle => 0 | .run => 1 | .doneOk => 2 | .doneFail => 3)
    ∧ s.status.extractLsb' 2 2 = 0
    ∧ s.status.extractLsb' 4 4 = s.cause
    ∧ s.status.extractLsb' 8 8 = s.pc
    ∧ s.status.extractLsb' 16 12 = s.chipName
    ∧ s.status.extractLsb' 28 4 = s.chipVer)
  ∧ State.reset.status = 0
  ∧ ∀ (s : State) (v : Word) (rest : List HostInput), s.host = .writeStatus v :: rest →
      step s = .refused .statusReadOnly

/-! ## The masked register writer -/

/-- 40_masked_writer.md R100: the composed word is `{mask16, value16 & mask16}`. -/
def Obligations.ComposedWordIsMaskThenValue : Prop :=
  ∀ mask value : Half, compose mask value = mask ++ (value &&& mask)

/-- 20_memory.md R59: after any store to a Masked register, a cell bit whose mask bit is 0 is unchanged and one whose mask bit
is 1 is the stored bit. -/
def Obligations.MaskedStoreTouchesOnlyMaskedBits : Prop :=
  ∀ (s : State) (a w : Word), regKindOf s.cfg a = .masked → ∀ i, i < 16 →
    ((s.memWrite a w).mreg a).getLsbD i = if w.getLsbD (16 + i) then w.getLsbD i else (s.mreg a).getLsbD i

/-- 40_masked_writer.md R101, R102, 20_memory.md R55 to R57: MWR at an aligned address completes, and stores
`{mask, value & mask}`. -/
def Obligations.MwrStoresComposedWord : Prop :=
  ∀ (s : State) (addr : Word) (mask value : Half), addr.toNat % 4 = 0 →
    ∃ t, exec (.mwr addr mask value) s = .next t ∧ Stored addr (mask ++ (value &&& mask)) s t

/-- 40_masked_writer.md R104, R105, 20_memory.md R55 to R57: WR32 at an aligned address completes, and stores its data. -/
def Obligations.Wr32StoresData : Prop :=
  ∀ (s : State) (addr data : Word), addr.toNat % 4 = 0 →
    ∃ t, exec (.wr32 addr data) s = .next t ∧ Stored addr data s t

/-- 20_memory.md R54, 40_masked_writer.md R101, R104: MWR and WR32 at an address with `addr[1:0] ≠ 0` raise MISALIGNED; no
event is logged and no cell changes. -/
def Obligations.MisalignedStoreFaults : Prop :=
  ∀ (s : State) (addr : Word), addr.toNat % 4 ≠ 0 →
    (∀ mask value, ∃ t, exec (.mwr addr mask value) s = .next t ∧ FaultedOnly 6 s t)
    ∧ ∀ data, ∃ t, exec (.wr32 addr data) s = .next t ∧ FaultedOnly 6 s t

/-- 40_masked_writer.md R103: the contract-level composition equals the command's where the mask's upper half is 0; and it
equals it exactly where no bit of `value & mask` above 15 lands outside the mask's own place. -/
def Obligations.ContractCompositionAgreement : Prop :=
  ∀ mask value : Word,
    (mask.extractLsb' 16 16 = 0 →
      compose32 mask value = compose (mask.extractLsb' 0 16) (value.extractLsb' 0 16))
    ∧ (compose32 mask value = compose (mask.extractLsb' 0 16) (value.extractLsb' 0 16)
      ↔ ∀ i, i < 16 → value.getLsbD (16 + i) = true → mask.getLsbD (16 + i) = true → mask.getLsbD i = true)

/-! ## The pin descriptor engine -/

/-- 20_memory.md R53, 41_pin_engine.md R114 to R116, R118, R120: the group's descriptor words are stored little-endian; PINGRP of a well-formed group completes; each pin takes FUNC, PULL and, where
DRIVE is not 0, DRIVE of the group's descriptors that name it, in list order; nothing else changes. -/
def Obligations.PingrpAppliesGroupInOrder : Prop :=
  ∀ (s : State) (g : Byte) (stored : List StoredWord) (ds : List Word), s.cfg.pinGroups[g.toNat]? = some stored →
    ds = stored.map (fun w => w.b3 ++ w.b2 ++ w.b1 ++ w.b0) →
    (∀ d ∈ ds, d.extractLsb' 26 6 = 0 ∧ d.extractLsb' 20 2 ≠ 3 ∧ (d.extractLsb' 22 4).toNat ≤ s.cfg.driveLevels
      ∧ (d.extractLsb' 8 8).toNat < s.cfg.numBanks ∧ (d.extractLsb' 0 8).toNat < s.cfg.pinsPerBank
      ∧ (d.extractLsb' 16 4).toNat < s.cfg.numFuncs) →
    ∃ t, exec (.pingrp g) s = .next t
      ∧ t = { s with pins := t.pins, pc := s.pc + 1, log := s.log ++ [.pinGroup g ds] }
      ∧ ∀ b p, t.pin b p
        = (ds.filter (fun d => d.extractLsb' 8 8 == b && d.extractLsb' 0 8 == p)).foldl
            (fun q d => { q with
              func := d.extractLsb' 16 4
              pull := if d.extractLsb' 20 2 = 1 then .pullUp else if d.extractLsb' 20 2 = 2 then .pullDown else .none
              drive := if d.extractLsb' 22 4 = 0 then q.drive else d.extractLsb' 22 4 })
            (s.pin b p)

/-- 41_pin_engine.md R117, 30_encoding.md R90, R92: PINGRP of a group id out of range, or of a group with an ill-formed
descriptor anywhere in it, raises ILLEGAL_COMMAND with no pin changed and no event logged. -/
def Obligations.PingrpNeverAppliesPartially : Prop :=
  ∀ (s : State) (g : Byte),
    (s.cfg.pinGroups.length ≤ g.toNat
      ∨ ∃ stored d, s.cfg.pinGroups[g.toNat]? = some stored ∧ d ∈ stored.map (fun w => w.b3 ++ w.b2 ++ w.b1 ++ w.b0) ∧
        (d.extractLsb' 26 6 ≠ 0 ∨ d.extractLsb' 20 2 = 3 ∨ s.cfg.driveLevels < (d.extractLsb' 22 4).toNat
          ∨ s.cfg.numBanks ≤ (d.extractLsb' 8 8).toNat ∨ s.cfg.pinsPerBank ≤ (d.extractLsb' 0 8).toNat
          ∨ s.cfg.numFuncs ≤ (d.extractLsb' 16 4).toNat)) →
    ∃ t, exec (.pingrp g) s = .next t ∧ FaultedOnly 5 s t

/-- 41_pin_engine.md R122, R123: GPIODIR of a pin in range completes, sets that pin's direction, and changes no other field of
it and no other pin. -/
def Obligations.GpiodirSetsOnePinsDirection : Prop :=
  ∀ (s : State) (bank pin : Byte) (dir : PinDir), bank.toNat < s.cfg.numBanks → pin.toNat < s.cfg.pinsPerBank →
    ∃ t, exec (.gpiodir bank pin dir) s = .next t
      ∧ t = { s with pins := t.pins, pc := s.pc + 1, log := s.log ++ [.gpioDir bank pin dir] }
      ∧ t.pin bank pin = { s.pin bank pin with dir := dir }
      ∧ ∀ b p, b ≠ bank ∨ p ≠ pin → t.pin b p = s.pin b p

/-- 41_pin_engine.md R123 to R125: GPIOWR of a pin in range completes, sets that pin's latch whatever its direction, and
changes no other field of it and no other pin. -/
def Obligations.GpiowrSetsOnePinsLevel : Prop :=
  ∀ (s : State) (bank pin : Byte) (level : PinLevel), bank.toNat < s.cfg.numBanks → pin.toNat < s.cfg.pinsPerBank →
    ∃ t, exec (.gpiowr bank pin level) s = .next t
      ∧ t = { s with pins := t.pins, pc := s.pc + 1, log := s.log ++ [.gpioWr bank pin level] }
      ∧ t.pin bank pin = { s.pin bank pin with level := level }
      ∧ ∀ b p, b ≠ bank ∨ p ≠ pin → t.pin b p = s.pin b p

/-- 30_encoding.md R90, 41_pin_engine.md R122, R124: a bank or pin out of range raises ILLEGAL_COMMAND, with no other effect. -/
def Obligations.GpioOutOfRangeIsIllegal : Prop :=
  ∀ (s : State) (bank pin : Byte), s.cfg.numBanks ≤ bank.toNat ∨ s.cfg.pinsPerBank ≤ pin.toNat →
    (∀ dir, ∃ t, exec (.gpiodir bank pin dir) s = .next t ∧ FaultedOnly 5 s t)
    ∧ ∀ level, ∃ t, exec (.gpiowr bank pin level) s = .next t ∧ FaultedOnly 5 s t

/-! ## The two-wire sequencer -/

/-- 42_two_wire.md R130: BUSRD answered `Ok(byte)` completes: the byte is captured, its valid bit set, the event logged; the
other capture, the regulator's mirror and everything else is unchanged. -/
def Obligations.BusrdCapturesTheByte : Prop :=
  ∀ (s : State) (dev : BitVec 7) (reg : Byte) (idx : BitVec 1) (byte : Byte),
    s.answerTo (.busRead s.cfg.bus dev reg) = .ok byte →
    ∃ t, exec (.busrd dev reg idx) s = .next t
      ∧ t = { s with
          cap0 := t.cap0, cap1 := t.cap1, capValid0 := t.capValid0, capValid1 := t.capValid1, pc := s.pc + 1,
          log := s.log ++ [.busRd dev reg (.ok byte)], answers := s.answers.tail, calls := s.calls + 1 }
      ∧ t.cap idx = byte ∧ t.capValid idx = true
      ∧ ∀ j, j ≠ idx → t.cap j = s.cap j ∧ t.capValid j = s.capValid j

/-- 42_two_wire.md R133: BUSWR answered `Ok` completes: the regulator's register takes the data where the device is the
regulator and the register is not an identification register; every other register keeps its value. -/
def Obligations.BuswrWritesTheRegister : Prop :=
  ∀ (s : State) (dev : BitVec 7) (reg data b : Byte),
    s.answerTo (.busWrite s.cfg.bus dev reg data) = .ok b →
    ∃ t, exec (.buswr dev reg data) s = .next t
      ∧ t = { s with
          pmic := t.pmic, pc := s.pc + 1, log := s.log ++ [.busWr dev reg data .ok],
          answers := s.answers.tail, calls := s.calls + 1 }
      ∧ (dev = s.cfg.pmicAddr → reg ≠ 0xED → reg ≠ 0xEE → t.pmicReg reg = data)
      ∧ ∀ r, r ≠ reg ∨ dev ≠ s.cfg.pmicAddr ∨ r = 0xED ∨ r = 0xEE → t.pmicReg r = s.pmicReg r

/-- 42_two_wire.md R131: BUSRD or BUSWR answered `Err` ends the run in DoneFail with cause BUS_ERROR, its event logged;
BUSRD changes no capture, and BUSWR at most the addressed register of the regulator (10_state.md R38). That an answer
is used up and the call counted is the model's own record of the oracle (log 3). -/
def Obligations.BusFailureIsFatal : Prop :=
  ∀ (s : State) (dev : BitVec 7) (reg left : Byte),
    (∀ idx, s.answerTo (.busRead s.cfg.bus dev reg) = .err left →
      ∃ t, exec (.busrd dev reg idx) s = .next t
        ∧ t = { s with
            st := .doneFail, cause := 1, log := s.log ++ [.busRd dev reg .err],
            answers := s.answers.tail, calls := s.calls + 1 })
    ∧ ∀ data, s.answerTo (.busWrite s.cfg.bus dev reg data) = .err left →
      ∃ t, exec (.buswr dev reg data) s = .next t
        ∧ t = { s with
            st := .doneFail, cause := 1, log := s.log ++ [.busWr dev reg data .err], pmic := t.pmic,
            answers := s.answers.tail, calls := s.calls + 1 }
        ∧ ∀ r, r ≠ reg ∨ dev ≠ s.cfg.pmicAddr → t.pmicReg r = s.pmicReg r

/-- 42_two_wire.md R134: a BUSWR of the regulator's 0xED or 0xEE answered `Ok` leaves the regulator's mirror unchanged, and a
plan that contains such a write is refused at admission. -/
def Obligations.IdentificationRegistersAreReadOnly : Prop :=
  ∀ (s : State) (reg data : Byte), reg = 0xED ∨ reg = 0xEE →
    (∀ b, s.answerTo (.busWrite s.cfg.bus s.cfg.pmicAddr reg data) = .ok b →
      ∃ t, exec (.buswr s.cfg.pmicAddr reg data) s = .next t ∧ t.pmic = s.pmic)
    ∧ ∀ plan : List (Option Instr), some (.buswr s.cfg.pmicAddr reg data) ∈ plan →
      chkIdReadonly s.cfg plan ≠ none ∧ admission s.cfg plan ≠ none

/-- 42_two_wire.md R136: the name is the high byte and then the high nibble of the low byte, the version its low nibble. -/
def Obligations.IdentityDecode : Prop :=
  ∀ hi lo : Byte,
    (decodeName hi lo).toNat = hi.toNat * 16 + lo.toNat / 16 ∧ (decodeVer lo).toNat = lo.toNat % 16

/-- 42_two_wire.md R136, R137: IDCHK with both captures written and the expected name completes, and stores name and
version. -/
def Obligations.IdchkMatchContinues : Prop :=
  ∀ (s : State) (expected : BitVec 12), s.capValid 0 = true → s.capValid 1 = true →
    expected.toNat = (s.cap 0).toNat * 16 + (s.cap 1).toNat / 16 →
    ∃ t, exec (.idchk expected) s = .next t
      ∧ t = { s with chipName := expected, chipVer := t.chipVer, pc := s.pc + 1 }
      ∧ t.chipVer.toNat = (s.cap 1).toNat % 16

/-- 42_two_wire.md R137, R138: IDCHK with a capture never written raises UNWRITTEN_CAPTURE with no other effect; with another
name than expected it raises ID_MISMATCH, and name and version are written all the same. -/
def Obligations.IdchkFaults : Prop :=
  ∀ (s : State) (expected : BitVec 12),
    (s.capValid 0 = false ∨ s.capValid 1 = false →
      ∃ t, exec (.idchk expected) s = .next t ∧ FaultedOnly 8 s t)
    ∧ (s.capValid 0 = true → s.capValid 1 = true →
      expected.toNat ≠ (s.cap 0).toNat * 16 + (s.cap 1).toNat / 16 →
      ∃ t, exec (.idchk expected) s = .next t
        ∧ t = { s with st := .doneFail, cause := 2, chipName := t.chipName, chipVer := t.chipVer }
        ∧ t.chipName.toNat = (s.cap 0).toNat * 16 + (s.cap 1).toNat / 16
        ∧ t.chipVer.toNat = (s.cap 1).toNat % 16)

/-- 20_memory.md R66: under the reference backend a read of the regulator returns `pmic[r]`, and no command ends a run for a
primitive's `Err`. -/
def Obligations.ReferenceBackendAnswersOk : Prop :=
  ∀ s : State, s.answers = [] → s.backend = .reference →
    (∀ reg idx, ∃ t, exec (.busrd s.cfg.pmicAddr reg idx) s = .next t ∧ t.cap idx = s.pmicReg reg
      ∧ t.log = s.log ++ [.busRd s.cfg.pmicAddr reg (.ok (s.pmicReg reg))])
    ∧ ∀ i t, exec i s = .next t → s.st = .run →
      t.st = .doneFail → t.cause ≠ 1 ∧ t.cause ≠ 3 ∧ t.cause ≠ 4

/-! ## The lane and voltage-domain ports -/

/-- 43_phy_domain.md R146: LANESEL of a lane in range, not yet selected, with a legal mode and answered `Ok`, completes: the
lane takes the mode and joins `laneSel`; every other lane is unchanged in both. -/
def Obligations.LaneselSelectsTheLane : Prop :=
  ∀ (s : State) (lane : Byte) (mode : LaneMode) (b : Byte), mode ≠ 3 → lane.toNat < s.cfg.numLanes →
    s.laneTaken lane = false → s.answerTo (.laneSelect lane mode) = .ok b →
    ∃ t, exec (.lanesel lane mode) s = .next t
      ∧ t = { s with
          laneMode := t.laneMode, laneSel := t.laneSel, pc := s.pc + 1,
          log := s.log ++ [.laneSel lane mode .ok], answers := s.answers.tail, calls := s.calls + 1 }
      ∧ t.modeOf lane = mode ∧ t.laneTaken lane = true
      ∧ ∀ l, l ≠ lane → t.modeOf l = s.modeOf l ∧ t.laneTaken l = s.laneTaken l

/-- 43_phy_domain.md R145 to R147, 60_exceptions.md R179: LANESEL's faults in their order: the reserved mode or a lane out of
range is ILLEGAL_COMMAND; else a selected lane is LANE_RESELECT, with no call; else `Err` is LANE_ERROR, with the
event logged, the lane's mode drawn and the lane not selected. -/
def Obligations.LaneselFaultsInOrder : Prop :=
  ∀ (s : State) (lane : Byte) (mode : LaneMode),
    (mode = 3 ∨ s.cfg.numLanes ≤ lane.toNat →
      ∃ t, exec (.lanesel lane mode) s = .next t ∧ FaultedOnly 5 s t)
    ∧ (mode ≠ 3 → lane.toNat < s.cfg.numLanes → s.laneTaken lane = true →
      ∃ t, exec (.lanesel lane mode) s = .next t ∧ FaultedOnly 9 s t)
    ∧ ∀ left, mode ≠ 3 → lane.toNat < s.cfg.numLanes → s.laneTaken lane = false →
      s.answerTo (.laneSelect lane mode) = .err left →
      ∃ t, exec (.lanesel lane mode) s = .next t
        ∧ t = { s with
            st := .doneFail, cause := 4, laneMode := t.laneMode, log := s.log ++ [.laneSel lane mode .err],
            answers := s.answers.tail, calls := s.calls + 1 }
        ∧ ∀ l, l ≠ lane → t.modeOf l = s.modeOf l

/-- 43_phy_domain.md R150: DOMSET of a domain not yet set, answered `Ok`, completes, whatever the id: the domain takes the
level and joins `domSet`; every other domain is unchanged in both. -/
def Obligations.DomsetSetsTheDomain : Prop :=
  ∀ (s : State) (dom : Byte) (lvl : VLevel) (b : Byte), s.domTaken dom = false →
    s.answerTo (.domainSet dom lvl) = .ok b →
    ∃ t, exec (.domset dom lvl) s = .next t
      ∧ t = { s with
          domLevel := t.domLevel, domSet := t.domSet, pc := s.pc + 1,
          log := s.log ++ [.domSet dom lvl .ok], answers := s.answers.tail, calls := s.calls + 1 }
      ∧ t.levelOf dom = lvl ∧ t.domTaken dom = true
      ∧ ∀ d, d ≠ dom → t.levelOf d = s.levelOf d ∧ t.domTaken d = s.domTaken d

/-- 43_phy_domain.md R150, R151: DOMSET of a domain already set is DOMAIN_RESET, with no call; else `Err` is DOMAIN_ERROR, with
the event logged, the domain's level drawn and the domain not in `domSet`. -/
def Obligations.DomsetFaultsInOrder : Prop :=
  ∀ (s : State) (dom : Byte) (lvl : VLevel),
    (s.domTaken dom = true → ∃ t, exec (.domset dom lvl) s = .next t ∧ FaultedOnly 10 s t)
    ∧ ∀ left, s.domTaken dom = false → s.answerTo (.domainSet dom lvl) = .err left →
      ∃ t, exec (.domset dom lvl) s = .next t
        ∧ t = { s with
            st := .doneFail, cause := 3, domLevel := t.domLevel, log := s.log ++ [.domSet dom lvl .err],
            answers := s.answers.tail, calls := s.calls + 1 }
        ∧ ∀ d, d ≠ dom → t.levelOf d = s.levelOf d

/-! ## END, faults and the program counter -/

/-- 44_coordinator.md R161: END sets `st` to DoneOk and changes nothing else, so `done` and `ok` become 1 and STATUS[1:0] is 2;
its one encoding is K = 0x0F, any other bit set beside its opcode raising ILLEGAL_COMMAND. -/
def Obligations.EndTerminatesWithSuccess : Prop :=
  (∀ s : State, ∃ t, exec .endPlan s = .next t ∧ t = { s with st := .doneOk } ∧ t.done = true ∧ t.ok = true
    ∧ t.status.extractLsb' 0 2 = 2)
  ∧ ∀ (s : State) (k : Command), Running s → s.pc < s.planLen → s.fetch = bytesOfCommand k →
      k.extractLsb' 0 8 = 0x0F →
      (k = 0x0F → step s = exec .endPlan s)
      ∧ (k ≠ 0x0F → ∃ t, step s = .next t ∧ FaultedOnly 5 s t)

/-- 44_coordinator.md R165: a command that completes advances `pc` by one and stays in Run; END and a fault leave `pc` and end
the run; and no other step but a reset changes `pc`. -/
def Obligations.PcAdvancesOnlyOnCompletion : Prop :=
  (∀ (i : Instr) (s t : State), s.st = .run → exec i s = .next t →
    (i ≠ .endPlan ∧ t.pc = s.pc + 1 ∧ t.st = .run) ∨ (t.pc = s.pc ∧ (t.st = .doneFail ∨ (i = .endPlan ∧ t.st = .doneOk))))
  ∧ ∀ s t : State, step s = .next t → ¬ ResetNext s →
      t.pc = s.pc ∨ (t.pc = s.pc + 1 ∧ s.st = .run ∧ t.st = .run)

/-- 60_exceptions.md R179, R182: every fault is precise. It is raised in Run only, and leaves what its kind may leave and nothing
else (`PreciseFault`; the answer it uses up is the model's own record: log 3): for each command, which never raises
PLAN_OVERRUN itself, and for the step with its fetch and decode, whose faults come first and in R179's order. -/
def Obligations.FaultsArePrecise : Prop :=
  (∀ (i : Instr) (s t : State), s.st = .run → exec i s = .next t → t.st = .doneFail →
    t.cause ≠ 7 ∧ PreciseFault (fun j => j = i) s t)
  ∧ ∀ s t : State, step s = .next t → t.st = .doneFail →
    s.st = .run
    ∧ PreciseFault (fun i => s.pc < s.planLen ∧ decode s.fetch = .ok i) { s with host := s.host.tail } t
    ∧ (s.planLen ≤ s.pc → t.cause = 7)
    ∧ (s.pc < s.planLen → (∀ i, decode s.fetch ≠ .ok i) → t.cause = 5)

/-- 10_state.md R39: the log only grows, by at most one event a command; a command that asks the oracle logs exactly one;
IDCHK and END log none; every other command that completes logs exactly one. -/
def Obligations.LogGrowsByOneEventPerCall : Prop :=
  ∀ (i : Instr) (s t : State), s.st = .run → exec i s = .next t →
    (t.log = s.log ∨ ∃ e, t.log = s.log ++ [e])
    ∧ (t.calls = s.calls ∨ (t.calls = s.calls + 1 ∧ t.log ≠ s.log))
    ∧ ((∃ n, i = .idchk n) ∨ i = .endPlan → t.log = s.log)
    ∧ (t.st = .run → (∀ n, i ≠ .idchk n) → t.log ≠ s.log)

/-- 10_state.md R42, 20_memory.md R70: no step writes the plan ROM, its length or a parameter. -/
def Obligations.ConfigurationIsImmutable : Prop :=
  ∀ s t : State, step s = .next t → t.planRom = s.planRom ∧ t.planLen = s.planLen ∧ t.cfg = s.cfg

/-- 40_masked_writer.md R112, 60_exceptions.md R178: the commands without an answerable call do the same whatever the oracle
would answer. -/
def Obligations.StoresAndPinsIgnoreTheOracle : Prop :=
  ∀ (i : Instr) (s t : State) (as : List Answer) (b : Backend) (n : Nat),
    (match i with
      | .busrd _ _ _ => False
      | .buswr _ _ _ => False
      | .lanesel _ _ => False
      | .domset _ _ => False
      | _ => True) →
    exec i s = .next t →
    exec i { s with answers := as, backend := b, calls := n } = .next { t with answers := as, backend := b, calls := n }

/-- 10_state.md R21 (93_implementation_defined.md U2): the data of an invalid capture is never observed: two states that differ
in nothing else are taken by every command to states that differ in nothing else, and not at all once the
capture is valid. -/
def Obligations.InvalidCaptureIsNeverObserved : Prop :=
  ∀ (i : Instr) (s t : State) (x : Byte), exec i s = .next t →
    (s.capValid0 = false → ∃ y, exec i { s with cap0 := x } = .next { t with cap0 := y }
      ∧ (t.capValid0 = true → y = t.cap0))
    ∧ (s.capValid1 = false → ∃ y, exec i { s with cap1 := x } = .next { t with cap1 := y }
      ∧ (t.capValid1 = true → y = t.cap1))

/-- 44_coordinator.md R159, R161: a run ends in success only by END, at `pc` within the plan, and END changes nothing but
`st`. -/
def Obligations.SuccessComesOnlyFromEnd : Prop :=
  ∀ s t : State, step s = .next t → t.st = .doneOk →
    s.st = .run ∧ s.pc < s.planLen ∧ decode s.fetch = .ok .endPlan ∧ t = { s with st := .doneOk, host := s.host.tail }

/-! ## Invariants -/

/-- Every step keeps every table in its canonical form. -/
def Obligations.StepKeepsCanonicalTables : Prop :=
  ∀ s t : State, Canonical s → step s = .next t → Canonical t

/-- 10_state.md R33, 20_memory.md R47 to R50, R57: every step keeps the mirror to the locations the spec gives it. -/
def Obligations.StepKeepsMirrorInRange : Prop :=
  ∀ s t : State, MirrorInRange s → step s = .next t → MirrorInRange t

/-- 10_state.md R26, 60_exceptions.md R177: every step keeps `cause` 0 outside DoneFail and a code from 1 to 10 in it. -/
def Obligations.StepKeepsCauseLegal : Prop :=
  ∀ s t : State, CauseLegal s → step s = .next t → CauseLegal t

/-- 44_coordinator.md R155, R156: every step keeps an Idle block as reset leaves it. -/
def Obligations.StepKeepsIdleFresh : Prop :=
  ∀ s t : State, IdleFresh s → step s = .next t → IdleFresh t

/-- 10_state.md R24: every step keeps `pc` at or before the end of the plan, so `pc + 1` never wraps. -/
def Obligations.StepKeepsPcInPlan : Prop :=
  ∀ s t : State, PcInPlan s → step s = .next t → PcInPlan t

/-- 10_state.md R31, R32, 43_phy_domain.md R145, R152: every step keeps the one-shot rule over the log: no lane is selected
and no domain set twice. -/
def Obligations.StepKeepsOneShot : Prop :=
  ∀ s t : State, OneShot s → step s = .next t → OneShot t

/-- 10_state.md R21, R36, R37, R39: every step keeps the lane modes, domain levels and valid captures in agreement with the
log. -/
def Obligations.StepKeepsMirrorAgreement : Prop :=
  ∀ s t : State, OneShot s → MirrorAgrees s → step s = .next t → MirrorAgrees t

/-- 70_reset_and_hazards.md R200: the reset state has the block's reset values and meets every invariant; its parameters, which
the model chose (log 1), are as R10, R56, R93, R107 and R191 state (the IOMUX kind: log 28). -/
def Obligations.InvariantsHoldAtReset : Prop :=
  Launch State.reset ∧ MirrorInRange State.reset ∧ CauseLegal State.reset ∧ IdleFresh State.reset
    ∧ PcInPlan State.reset ∧ OneShot State.reset ∧ MirrorAgrees State.reset ∧ AdmittedRun State.reset
    ∧ paramsLegal State.reset.cfg = true

/-- Equal contents are equal data: two tables in canonical form, of any kind of entry and with any default, that read the same
at every key are the same table. The form is the model's own (log 5). -/
def Obligations.CanonicalTablesAreEqualData : Prop :=
  ∀ (α : Type) [DecidableEq α] (d : α) (m n : List (Nat × α)), sparseWf d m = true → sparseWf d n = true →
    (∀ k, sparseGet d m k = sparseGet d n k) → m = n

/-! ## Runs, plans and the assembler -/

/-- 44_coordinator.md R167: every run ends: from Run, with no host input to come, `done` is reached within one step more than
the commands left in the plan. -/
def Obligations.EveryRunEnds : Prop :=
  ∀ s : State, Running s →
    ∃ (k : Nat) (t : State), k ≤ s.planLen.toNat - s.pc.toNat + 1 ∧ Host.Core.run Sys2Proof.core k s = .next t ∧ t.done = true

/-- 70_reset_and_hazards.md R206, R213, R215: every step keeps a run of an admitted plan within the plan, its last command being
END; and no step of it raises ILLEGAL_COMMAND, MISALIGNED or PLAN_OVERRUN. -/
def Obligations.AdmittedPlanRaisesNoStaticFault : Prop :=
  ∀ s t : State, AdmittedRun s → step s = .next t →
    AdmittedRun t ∧ (t.st = .doneFail → t.cause ≠ 5 ∧ t.cause ≠ 6 ∧ t.cause ≠ 7)

/-- 70_reset_and_hazards.md R206 to R216: a plan is refused a run exactly where one of the ten checks gives a pc, and the refusal
names a check and the pc that this check gives; an admitted plan's launch is given its start and nothing else (that
launching is an operation beside the step is log 25). -/
def Obligations.UnadmittedPlanIsRefusedARun : Prop :=
  ∀ s : State,
    (s.admitted = false ↔
      chkLaneBeforePins s.cfg s.planText ≠ none ∨ chkRegulatorOrder s.cfg s.planText ≠ none
      ∨ chkRailsBeforeClocks s.cfg s.planText ≠ none ∨ chkGpioOrder s.cfg s.planText ≠ none
      ∨ chkIdentifyFirst s.cfg s.planText ≠ none ∨ chkOnce s.cfg s.planText ≠ none
      ∨ chkMwrTarget s.cfg s.planText ≠ none ∨ chkIdReadonly s.cfg s.planText ≠ none
      ∨ chkWellformed s.cfg s.planText ≠ none ∨ chkBusPins s.cfg s.planText ≠ none)
    ∧ (s.admitted = false → ∃ check pc, s.launchRun = .refused (.notAdmitted check pc)
      ∧ (match check with
        | .laneBeforePins => chkLaneBeforePins s.cfg s.planText
        | .regulatorOrder => chkRegulatorOrder s.cfg s.planText
        | .railsBeforeClocks => chkRailsBeforeClocks s.cfg s.planText
        | .gpioOrder => chkGpioOrder s.cfg s.planText
        | .identifyFirst => chkIdentifyFirst s.cfg s.planText
        | .once => chkOnce s.cfg s.planText
        | .mwrTarget => chkMwrTarget s.cfg s.planText
        | .idReadonly => chkIdReadonly s.cfg s.planText
        | .wellformed => chkWellformed s.cfg s.planText
        | .busPins => chkBusPins s.cfg s.planText) = some pc)
    ∧ (s.admitted = true → ∃ t, s.launchRun = .next t ∧ t = { s with host := [.start 0] })

/-- 70_reset_and_hazards.md R217: the board plan, of whatever parameters meet their stated constraints (with the ranges of the
pins and groups it uses: log 28), has 40 commands and passes every check. -/
def Obligations.BoardPlanIsAdmitted : Prop :=
  ∀ s : State, paramsInRange s.cfg = true → boardConstraints s.cfg = true →
    ∃ t, s.loadPlan (boardPlan s.cfg) = .next t ∧ t.planLen = 40 ∧ t.admitted = true

/-- 30_encoding.md R97 to R99: an operand that does not fit its field is an error: a line assembles exactly when every operand is
the value of a field, and then to its expansion; `mwr_field` only within its bounds (what it expands to is the next
statement), and the read-modify-write form not at all. That `lanesel` assembles with the reserved mode 3, which fits its 2-bit
field and which the decoder then refuses (R88), is the model's choice and no rule of the spec (log 21). -/
def Obligations.AssemblerNeverTruncates : Prop :=
  (∀ addr mask value is, assemble (.mwr addr mask value) = .ok is ↔
    ∃ (a : Word) (m v : Half), is = [.mwr a m v] ∧ a.toNat = addr ∧ m.toNat = mask ∧ v.toNat = value)
  ∧ (∀ addr data is, assemble (.wr32 addr data) = .ok is ↔
    ∃ a d : Word, is = [.wr32 a d] ∧ a.toNat = addr ∧ d.toNat = data)
  ∧ (∀ dom lvl is, assemble (.domset dom lvl) = .ok is ↔
    ∃ (d : Byte) (l : VLevel), is = [.domset d l] ∧ d.toNat = dom ∧ (match l with | .v1_8 => 0 | .v3_3 => 1) = lvl)
  ∧ (∀ dev reg idx is, assemble (.busrd dev reg idx) = .ok is ↔
    ∃ (d : BitVec 7) (r : Byte) (i : BitVec 1), is = [.busrd d r i] ∧ d.toNat = dev ∧ r.toNat = reg ∧ i.toNat = idx)
  ∧ (∀ dev reg data is, assemble (.buswr dev reg data) = .ok is ↔
    ∃ (d : BitVec 7) (r v : Byte), is = [.buswr d r v] ∧ d.toNat = dev ∧ r.toNat = reg ∧ v.toNat = data)
  ∧ (∀ name is, assemble (.idchk name) = .ok is ↔ ∃ n : BitVec 12, is = [.idchk n] ∧ n.toNat = name)
  ∧ (∀ lane mode is, assemble (.lanesel lane mode) = .ok is ↔
    ∃ (l : Byte) (m : LaneMode), is = [.lanesel l m] ∧ l.toNat = lane ∧ m.toNat = mode)
  ∧ (∀ g is, assemble (.pingrp g) = .ok is ↔ ∃ h : Byte, is = [.pingrp h] ∧ h.toNat = g)
  ∧ (∀ bank pin dir is, assemble (.gpiodir bank pin dir) = .ok is ↔
    ∃ (b p : Byte) (d : PinDir), is = [.gpiodir b p d] ∧ b.toNat = bank ∧ p.toNat = pin
      ∧ (match d with | .input => 0 | .output => 1) = dir)
  ∧ (∀ bank pin level is, assemble (.gpiowr bank pin level) = .ok is ↔
    ∃ (b p : Byte) (l : PinLevel), is = [.gpiowr b p l] ∧ b.toNat = bank ∧ p.toNat = pin
      ∧ (match l with | .low => 0 | .high => 1) = level)
  ∧ (∀ is, assemble .endPlan = .ok is ↔ is = [.endPlan])
  ∧ (∀ dev name is, assemble (.identify dev name) = .ok is ↔
    ∃ (d : BitVec 7) (n : BitVec 12), is = [.busrd d 0xED 0, .busrd d 0xEE 1, .idchk n] ∧ d.toNat = dev ∧ n.toNat = name)
  ∧ (∀ bank pin is, assemble (.gpioOutHigh bank pin) = .ok is ↔
    ∃ b p : Byte, is = [.gpiodir b p .output, .gpiowr b p .high] ∧ b.toNat = bank ∧ p.toNat = pin)
  ∧ (∀ bank pin is, assemble (.gpioOutLow bank pin) = .ok is ↔
    ∃ b p : Byte, is = [.gpiodir b p .output, .gpiowr b p .low] ∧ b.toNat = bank ∧ p.toNat = pin)
  ∧ (∀ addr hi lo v, (∃ is, assemble (.mwrField addr hi lo v) = .ok is) ↔
    addr < 2 ^ 32 ∧ lo ≤ hi ∧ hi ≤ 15 ∧ v < 2 ^ (hi - lo + 1))
  ∧ ∀ is, assemble .rmw ≠ .ok is

/-- 30_encoding.md R98: `mwr_field` expands to the masked write of exactly the bits HI to LO, with V shifted into them. -/
def Obligations.MwrFieldExpansion : Prop :=
  ∀ addr hi lo v : Nat, addr < 2 ^ 32 → lo ≤ hi → hi ≤ 15 → v < 2 ^ (hi - lo + 1) →
    ∃ (a : Word) (m w : Half), assemble (.mwrField addr hi lo v) = .ok [.mwr a m w] ∧ a.toNat = addr
      ∧ (∀ b, b < 16 → (m.getLsbD b = true ↔ lo ≤ b ∧ b ≤ hi)) ∧ w.toNat = v * 2 ^ lo ∧ w &&& m = w
end

