-- ==== Sys2Proof/Laws/Admission.lean ====
section
/-! SUPPORT. What the plan admission of Machine/Admission.lean can say: the ten checks one by one, a check over every pc, and the
plan's text pc by pc. -/

namespace Sys2Proof.Machine

/-- A check passes exactly where no pc is bad. -/
theorem firstBad_eq_none {n : Nat} {bad : Nat → Bool} : firstBad n bad = none ↔ ∀ i < n, bad i = false := by
  simp [firstBad]

/-- A plan is admitted exactly where each of R207 to R216 gives no pc. -/
theorem admission_eq_none {cfg : Params} {plan : List (Option Instr)} :
    admission cfg plan = none ↔
      chkLaneBeforePins cfg plan = none ∧ chkRegulatorOrder cfg plan = none ∧ chkRailsBeforeClocks cfg plan = none
      ∧ chkGpioOrder cfg plan = none ∧ chkIdentifyFirst cfg plan = none ∧ chkOnce cfg plan = none
      ∧ chkMwrTarget cfg plan = none ∧ chkIdReadonly cfg plan = none ∧ chkWellformed cfg plan = none
      ∧ chkBusPins cfg plan = none := by
  simp [admission]

theorem admitted_iff (s : State) : s.admitted = true ↔ admission s.cfg s.planText = none := by
  simp [State.admitted]

/-! ## The plan's text -/

@[simp] theorem length_planText (s : State) : s.planText.length = s.planLen.toNat := by simp [State.planText]

theorem commandAt_planText {s : State} {k : Nat} (h : k < s.planLen.toNat) :
    commandAt s.planText k = (match decode (s.commandBytes k) with | .ok i => some i | .error _ => none) := by
  simp only [commandAt, State.planText, List.getElem?_map, List.getElem?_range h]
  rfl

/-! ## CHK_WELLFORMED at one pc -/

/-- R215 at one pc of an admitted plan: the command there decodes, is in range, and is END exactly where it is the last. -/
theorem wellformed_at {cfg : Params} {plan : List (Option Instr)} (h : chkWellformed cfg plan = none) {i : Nat}
    (hi : i < plan.length) :
    ∃ c, commandAt plan i = some c ∧ i < maxPlanLen ∧ commandInRange cfg c = true ∧ (c = .endPlan ↔ i + 1 = plan.length) := by
  unfold chkWellformed at h
  rw [if_neg (by omega), firstBad_eq_none] at h
  have h := h i hi
  cases hc : commandAt plan i with
  | none => simp [hc] at h
  | some c => exact ⟨c, rfl, by simp only [hc] at h; simp at h; grind⟩

end Sys2Proof.Machine
end

