-- ==== Sys2Proof/Laws/Assembler.lean ====
section
/-! SUPPORT. What the assembler's field operations can say: an operand is fitted exactly where it is the field's value as a
number. -/

namespace Sys2Proof.Machine

theorem fit_eq_ok {w n : Nat} {v : BitVec w} : fit w n = .ok v ↔ v.toNat = n := by
  unfold fit
  split
  · constructor
    · intro h
      cases h
      simp [Nat.mod_eq_of_lt ‹_›]
    · rintro rfl
      simp
  · constructor
    · intro h
      cases h
    · rintro rfl
      exact absurd v.isLt ‹_›

theorem fitBit_eq_ok {n : Nat} {b : Bool} : fitBit n = .ok b ↔ n = b.toNat := by
  unfold fitBit
  rcases b with _ | _ <;> split <;> simp <;> omega

/-- A sequence of fittings succeeds exactly where each does. -/
theorem except_bind_eq_ok {ε α β : Type} {x : Except ε α} {f : α → Except ε β} {b : β} :
    (x >>= f) = .ok b ↔ ∃ a, x = .ok a ∧ f a = .ok b := by
  cases x <;> simp [Bind.bind, Except.bind]

end Sys2Proof.Machine
end

