-- ==== Sys2Proof/Laws/Sparse.lean ====
section
/-! SUPPORT. The laws of sparse tables: reading after writing, on any list, and that writing keeps the canonical form and
adds no key but the one written. -/

namespace Sys2Proof.Machine

variable {α : Type} (d : α)

theorem sparseGet_erase (m : List (Nat × α)) (k j : Nat) :
    sparseGet d (sparseErase m k) j = if j = k then d else sparseGet d m j := by
  induction m with
  | nil => simp [sparseErase, sparseGet]
  | cons e m ih =>
    obtain ⟨i, v⟩ := e
    simp only [sparseErase]
    split
    · subst i; rw [ih]; simp only [sparseGet]; split <;> simp_all
    · simp only [sparseGet, ih]; split <;> split <;> simp_all

theorem sparseGet_insert (m : List (Nat × α)) (k j : Nat) (v : α) :
    sparseGet d (sparseInsert m k v) j = if j = k then v else sparseGet d m j := by
  induction m with
  | nil => simp [sparseInsert, sparseGet]
  | cons e m ih =>
    obtain ⟨i, u⟩ := e
    simp only [sparseInsert]
    split
    · simp [sparseGet]
    · split
      · subst i; simp only [sparseGet]; split <;> simp_all
      · simp only [sparseGet, ih]; split <;> split <;> simp_all

variable [DecidableEq α]

/-- Reading after writing, at any key and on any list. -/
theorem sparseGet_set (m : List (Nat × α)) (k j : Nat) (v : α) :
    sparseGet d (sparseSet d m k v) j = if j = k then v else sparseGet d m j := by
  unfold sparseSet
  split
  · subst v; exact sparseGet_erase d m k j
  · exact sparseGet_insert d m k j v

@[simp] theorem sparseGet_set_same (m : List (Nat × α)) (k : Nat) (v : α) :
    sparseGet d (sparseSet d m k v) k = v := by
  rw [sparseGet_set, if_pos rfl]

theorem sparseGet_set_ne (m : List (Nat × α)) {k j : Nat} (h : j ≠ k) (v : α) :
    sparseGet d (sparseSet d m k v) j = sparseGet d m j := by
  rw [sparseGet_set, if_neg h]

/-- A table made of listed entries reads as the list does, within the keys kept. -/
theorem sparseGet_of (keep : Nat → Bool) (m : List (Nat × α)) (k : Nat) :
    sparseGet d (sparseOf d keep m) k = if keep k then sparseGet d m k else d := by
  induction m with
  | nil => simp [sparseOf, sparseGet]
  | cons e m ih =>
    obtain ⟨i, v⟩ := e
    by_cases h : k = i
    · subst h
      cases hk : keep k <;> simp [sparseOf, sparseGet, hk, ih]
    · cases hk : keep i <;> simp [sparseOf, sparseGet, hk, h, ih, sparseGet_set_ne]

/-! ## Keys -/

omit [DecidableEq α] in
theorem mem_sparseErase {m : List (Nat × α)} {k : Nat} {e : Nat × α} (h : e ∈ sparseErase m k) : e ∈ m := by
  induction m with
  | nil => simp [sparseErase] at h
  | cons f m ih =>
    obtain ⟨i, u⟩ := f
    simp only [sparseErase] at h
    split at h
    · exact List.mem_cons_of_mem _ (ih h)
    · rcases List.mem_cons.1 h with h | h
      · exact h ▸ List.mem_cons_self
      · exact List.mem_cons_of_mem _ (ih h)

omit [DecidableEq α] in
theorem mem_sparseInsert {m : List (Nat × α)} {k : Nat} {v : α} {e : Nat × α} (h : e ∈ sparseInsert m k v) :
    e = (k, v) ∨ e ∈ m := by
  induction m with
  | nil => simpa [sparseInsert] using h
  | cons f m ih =>
    obtain ⟨i, u⟩ := f
    simp only [sparseInsert] at h
    split at h
    · simpa using h
    · split at h
      · rcases List.mem_cons.1 h with h | h
        · exact .inl h
        · exact .inr (List.mem_cons_of_mem _ h)
      · rcases List.mem_cons.1 h with h | h
        · exact .inr (h ▸ List.mem_cons_self)
        · rcases ih h with h | h
          · exact .inl h
          · exact .inr (List.mem_cons_of_mem _ h)

/-- An entry after a write is the one written or was there before. -/
theorem mem_sparseSet {m : List (Nat × α)} {k : Nat} {v : α} {e : Nat × α} (h : e ∈ sparseSet d m k v) :
    e = (k, v) ∨ e ∈ m := by
  unfold sparseSet at h
  split at h
  · exact .inr (mem_sparseErase h)
  · exact mem_sparseInsert h

/-- An entry of a table made of listed entries is one of them, with a key that is kept. -/
theorem mem_sparseOf {keep : Nat → Bool} {m : List (Nat × α)} {e : Nat × α} (h : e ∈ sparseOf d keep m) :
    keep e.1 = true ∧ e ∈ m := by
  induction m with
  | nil => simp [sparseOf] at h
  | cons f m ih =>
    obtain ⟨i, v⟩ := f
    rw [sparseOf] at h
    split at h
    · rcases mem_sparseSet d h with rfl | h
      · exact ⟨‹_›, List.mem_cons_self⟩
      · exact ⟨(ih h).1, List.mem_cons_of_mem _ (ih h).2⟩
    · exact ⟨(ih h).1, List.mem_cons_of_mem _ (ih h).2⟩

/-! ## The canonical form -/

theorem sparseAbove_weaken {m : List (Nat × α)} {lo hi : Option Nat}
    (hle : ∀ l ∈ lo, ∃ u ∈ hi, l ≤ u) (h : sparseAbove d hi m = true) : sparseAbove d lo m = true := by
  cases m with
  | nil => rfl
  | cons e m =>
    simp only [sparseAbove, Bool.and_eq_true, Option.all_eq_true, decide_eq_true_eq] at h ⊢
    refine ⟨⟨fun l hl => ?_, h.1.2⟩, h.2⟩
    obtain ⟨u, hu, hlu⟩ := hle l hl
    exact lt_of_le_of_lt hlu (h.1.1 u hu)

theorem sparseAbove_erase {m : List (Nat × α)} {lo : Option Nat} (k : Nat) (h : sparseAbove d lo m = true) :
    sparseAbove d lo (sparseErase m k) = true := by
  induction m generalizing lo with
  | nil => rfl
  | cons e m ih =>
    obtain ⟨i, u⟩ := e
    simp only [sparseErase]
    have h' := h
    simp only [sparseAbove, Bool.and_eq_true] at h'
    split
    · refine ih (sparseAbove_weaken d (fun l hl => ⟨i, rfl, ?_⟩) h'.2)
      have := h'.1.1
      simp only [Option.all_eq_true, decide_eq_true_eq] at this
      exact (this l hl).le
    · simp only [sparseAbove, Bool.and_eq_true]
      exact ⟨h'.1, ih h'.2⟩

theorem sparseAbove_insert {m : List (Nat × α)} {lo : Option Nat} {k : Nat} {v : α} (hv : v ≠ d)
    (hk : ∀ l ∈ lo, l < k) (h : sparseAbove d lo m = true) : sparseAbove d lo (sparseInsert m k v) = true := by
  induction m generalizing lo with
  | nil =>
    simp only [sparseInsert, sparseAbove, Bool.and_eq_true, Option.all_eq_true, decide_eq_true_eq]
    exact ⟨⟨hk, hv⟩, trivial⟩
  | cons e m ih =>
    obtain ⟨i, u⟩ := e
    have h' := h
    simp only [sparseAbove, Bool.and_eq_true, Option.all_eq_true, decide_eq_true_eq] at h'
    simp only [sparseInsert]
    split
    · simp only [sparseAbove, Bool.and_eq_true, Option.all_eq_true, decide_eq_true_eq]
      exact ⟨⟨hk, hv⟩, ⟨fun l hl => by cases hl; assumption, h'.1.2⟩, h'.2⟩
    · split
      · subst i
        simp only [sparseAbove, Bool.and_eq_true, Option.all_eq_true, decide_eq_true_eq]
        exact ⟨⟨hk, hv⟩, h'.2⟩
      · simp only [sparseAbove, Bool.and_eq_true, Option.all_eq_true, decide_eq_true_eq]
        exact ⟨h'.1, ih (fun l hl => by cases hl; omega) h'.2⟩

/-- Writing keeps the canonical form. -/
theorem sparseWf_set {m : List (Nat × α)} (k : Nat) (v : α) (h : sparseWf d m = true) :
    sparseWf d (sparseSet d m k v) = true := by
  unfold sparseWf sparseSet at *
  split
  · exact sparseAbove_erase d k h
  · exact sparseAbove_insert d (by assumption) (by simp) h

theorem sparseWf_of (keep : Nat → Bool) (m : List (Nat × α)) : sparseWf d (sparseOf d keep m) = true := by
  induction m with
  | nil => rfl
  | cons e m ih =>
    rw [sparseOf]
    split
    · exact sparseWf_set d _ _ ih
    · exact ih

end Sys2Proof.Machine
end

