-- ==== Sys2Proof/Laws/Canonical.lean ====
section
/-! SUPPORT. Every operation that writes a memory or a table keeps its canonical form, the reset state has it, and which
keys a written cell may add. -/

namespace Sys2Proof.Machine

/-! ## Memory -/

theorem wf_setByte {m : Memory} (a : Nat) (b : Byte) (h : Memory.wf m = true) : Memory.wf (setByte m a b) = true :=
  sparseWf_set _ a b h

theorem wf_setCell16 {m : Memory} (a : Nat) (v : Half) (h : Memory.wf m = true) : Memory.wf (setCell16 m a v) = true :=
  wf_setByte _ _ (wf_setByte _ _ h)

theorem wf_setCell32 {m : Memory} (a : Nat) (w : Word) (h : Memory.wf m = true) : Memory.wf (setCell32 m a w) = true :=
  wf_setByte _ _ (wf_setByte _ _ (wf_setByte _ _ (wf_setByte _ _ h)))

theorem wf_memWrite {s : State} (addr w : Word) (h : Memory.wf s.mem = true) :
    Memory.wf (s.memWrite addr w).mem = true := by
  unfold State.memWrite
  cases regKindOf s.cfg addr with
  | masked => exact wf_setCell16 _ _ h
  | plain => exact wf_setCell32 _ _ h
  | unmodelled => exact h

theorem wf_layBytes {m : Memory} (a : Nat) (bs : List Byte) (h : Memory.wf m = true) :
    Memory.wf (layBytes m a bs) = true := by
  induction bs generalizing m a with
  | nil => exact h
  | cons b bs ih => exact ih _ (wf_setByte a b h)

/-- All that loading a plan can do. -/
theorem loadPlan_cases (plan : List Instr) (s : State) :
    (plan.length ≤ maxPlanLen
      ∧ s.loadPlan plan = .next { s with planRom := layPlan [] 0 plan, planLen := BitVec.ofNat 8 plan.length })
    ∨ (maxPlanLen < plan.length ∧ s.loadPlan plan = .refused (.notAdmitted .wellformed maxPlanLen)) := by
  unfold State.loadPlan
  split
  · exact .inl ⟨‹_›, rfl⟩
  · exact .inr ⟨by omega, rfl⟩

theorem wf_layPlan {m : Memory} (k : Nat) (plan : List Instr) (h : Memory.wf m = true) :
    Memory.wf (layPlan m k plan) = true := by
  induction plan generalizing m k with
  | nil => exact h
  | cons i is ih => exact ih _ (wf_layBytes _ _ h)

theorem wf_loadPlan {plan : List Instr} {s t : State} (h : s.loadPlan plan = .next t) : Memory.wf t.planRom = true := by
  rcases loadPlan_cases plan s with ⟨_, e⟩ | ⟨_, e⟩ <;> rw [e] at h <;> cases h
  exact wf_layPlan 0 plan rfl

/-! ## The regulator's registers -/

theorem wf_pmicWritten {s : State} (dev : BitVec 7) (reg data : Byte) (h : Memory.wf s.pmic = true) :
    Memory.wf (s.pmicWritten dev reg data).pmic = true := by
  unfold State.pmicWritten
  dsimp only
  split
  · exact sparseWf_set _ _ _ h
  · exact h

theorem wf_pmicDrawn {s : State} (dev : BitVec 7) (reg left : Byte) (h : Memory.wf s.pmic = true) :
    Memory.wf (s.pmicDrawn dev reg left).pmic = true := by
  unfold State.pmicDrawn
  dsimp only
  split
  · exact sparseWf_set _ _ _ h
  · exact h

/-! ## Pins, lanes, domains -/

theorem wf_setPin {s : State} (b p : Byte) (v : Pin) (h : sparseWf Config.unlistedPin s.pins = true) :
    sparseWf Config.unlistedPin (s.setPin b p v).pins = true :=
  sparseWf_set _ _ _ h

theorem wf_applyDesc {pins : List (Nat × Pin)} (d : Word) (h : sparseWf Config.unlistedPin pins = true) :
    sparseWf Config.unlistedPin (applyDesc d pins) = true :=
  sparseWf_set _ _ _ h

theorem wf_foldl_applyDesc {pins : List (Nat × Pin)} (ds : List Word) (h : sparseWf Config.unlistedPin pins = true) :
    sparseWf Config.unlistedPin (ds.foldl (fun pins d => applyDesc d pins) pins) = true := by
  induction ds generalizing pins with
  | nil => exact h
  | cons d ds ih => exact ih (wf_applyDesc d h)

theorem wf_applyDescs {s : State} (ds : List Word) (h : sparseWf Config.unlistedPin s.pins = true) :
    sparseWf Config.unlistedPin (s.applyDescs ds).pins = true :=
  wf_foldl_applyDesc ds h

theorem wf_setMode {s : State} (l : Byte) (m : LaneMode) (h : sparseWf Config.unlistedMode s.laneMode = true) :
    sparseWf Config.unlistedMode (s.setMode l m).laneMode = true :=
  sparseWf_set _ _ _ h

theorem wf_setLevel {s : State} (d : Byte) (v : VLevel) (h : sparseWf Config.unlistedLevel s.domLevel = true) :
    sparseWf Config.unlistedLevel (s.setLevel d v).domLevel = true :=
  sparseWf_set _ _ _ h

/-! ## Reset and launch -/

theorem wf_launch_mem (x : ExternalDraw) (s : State) : Memory.wf (s.launch x).mem = true := sparseWf_of _ _ _

theorem wf_launch_pmic (x : ExternalDraw) (s : State) : Memory.wf (s.launch x).pmic = true := sparseWf_of _ _ _

theorem wf_launch_pins (x : ExternalDraw) (s : State) : sparseWf Config.unlistedPin (s.launch x).pins = true :=
  sparseWf_of _ _ _

theorem wf_launch_laneMode (x : ExternalDraw) (s : State) :
    sparseWf Config.unlistedMode (s.launch x).laneMode = true := sparseWf_of _ _ _

theorem wf_launch_domLevel (x : ExternalDraw) (s : State) :
    sparseWf Config.unlistedLevel (s.launch x).domLevel = true := sparseWf_of _ _ _

theorem wf_reset_mem : Memory.wf State.reset.mem = true := rfl

theorem wf_reset_pmic : Memory.wf State.reset.pmic = true := rfl

theorem wf_reset_planRom : Memory.wf State.reset.planRom = true := by decide +kernel

/-! ## Which keys a written cell may add -/

theorem mem_setByte {m : Memory} {a : Nat} {b : Byte} {e : Host.Cell} (h : e ∈ setByte m a b) : e.1 = a ∨ e ∈ m := by
  rcases mem_sparseSet _ h with rfl | h
  · exact .inl rfl
  · exact .inr h

theorem mem_setCell16 {m : Memory} {a : Nat} {v : Half} {e : Host.Cell} (h : e ∈ setCell16 m a v) :
    (a ≤ e.1 ∧ e.1 < a + 2) ∨ e ∈ m := by
  rcases mem_setByte h with h | h
  · exact .inl (by omega)
  · rcases mem_setByte h with h | h
    · exact .inl (by omega)
    · exact .inr h

theorem mem_setCell32 {m : Memory} {a : Nat} {w : Word} {e : Host.Cell} (h : e ∈ setCell32 m a w) :
    (a ≤ e.1 ∧ e.1 < a + 4) ∨ e ∈ m := by
  rcases mem_setByte h with h | h
  · exact .inl (by omega)
  · rcases mem_setByte h with h | h
    · exact .inl (by omega)
    · rcases mem_setByte h with h | h
      · exact .inl (by omega)
      · rcases mem_setByte h with h | h
        · exact .inl (by omega)
        · exact .inr h

theorem mem_foldl_applyDesc {pins : List (Nat × Pin)} {ds : List Word} {e : Nat × Pin}
    (h : e ∈ ds.foldl (fun pins d => applyDesc d pins) pins) : e.1 < 65536 ∨ e ∈ pins := by
  induction ds generalizing pins with
  | nil => exact .inr h
  | cons d ds ih =>
    rcases ih h with h | h
    · exact .inl h
    · rcases mem_sparseSet _ h with rfl | h
      · have hb := (descBank d).isLt
        have hp := (descPin d).isLt
        exact .inl (by show pinKey _ _ < _; unfold pinKey; omega)
      · exact .inr h

end Sys2Proof.Machine
end

