-- ==== Sys2Proof/Laws/Decode.lean ====
section
/-! SUPPORT. Commands as packed fields: what each field of a packed command is, how masks meet packed fields, and that the bytes
of a command give it back. -/

namespace Sys2Proof

@[simp] theorem op_packCommand (op a b c : Byte) (x y : Word) : Command.op (packCommand op a b c x y) = op := by
  unfold Command.op packCommand; ext i hi
  simp only [BitVec.getElem_extractLsb', BitVec.getLsbD_append]
  rw [if_pos (by omega), BitVec.getLsbD_eq_getElem (by omega)]; congr 1; omega

@[simp] theorem a_packCommand (op a b c : Byte) (x y : Word) : Command.a (packCommand op a b c x y) = a := by
  unfold Command.a packCommand; ext i hi
  simp only [BitVec.getElem_extractLsb', BitVec.getLsbD_append]
  rw [if_neg (by omega), if_pos (by omega), BitVec.getLsbD_eq_getElem (by omega)]; congr 1; omega

@[simp] theorem b_packCommand (op a b c : Byte) (x y : Word) : Command.b (packCommand op a b c x y) = b := by
  unfold Command.b packCommand; ext i hi
  simp only [BitVec.getElem_extractLsb', BitVec.getLsbD_append]
  rw [if_neg (by omega), if_neg (by omega), if_pos (by omega), BitVec.getLsbD_eq_getElem (by omega)]; congr 1; omega

@[simp] theorem c_packCommand (op a b c : Byte) (x y : Word) : Command.c (packCommand op a b c x y) = c := by
  unfold Command.c packCommand; ext i hi
  simp only [BitVec.getElem_extractLsb', BitVec.getLsbD_append]
  rw [if_neg (by omega), if_neg (by omega), if_neg (by omega), if_pos (by omega), BitVec.getLsbD_eq_getElem (by omega)]
  congr 1; omega

@[simp] theorem x_packCommand (op a b c : Byte) (x y : Word) : Command.x (packCommand op a b c x y) = x := by
  unfold Command.x packCommand; ext i hi
  simp only [BitVec.getElem_extractLsb', BitVec.getLsbD_append]
  rw [if_neg (by omega), if_neg (by omega), if_neg (by omega), if_neg (by omega), if_pos (by omega),
    BitVec.getLsbD_eq_getElem (by omega)]
  congr 1; omega

@[simp] theorem y_packCommand (op a b c : Byte) (x y : Word) : Command.y (packCommand op a b c x y) = y := by
  unfold Command.y packCommand; ext i hi
  simp only [BitVec.getElem_extractLsb', BitVec.getLsbD_append]
  rw [if_neg (by omega), if_neg (by omega), if_neg (by omega), if_neg (by omega), if_neg (by omega),
    BitVec.getLsbD_eq_getElem (by omega)]
  congr 1; omega

/-- Every command is its fields packed. -/
theorem packCommand_fields (k : Command) :
    packCommand (Command.op k) (Command.a k) (Command.b k) (Command.c k) (Command.x k) (Command.y k) = k := by
  unfold packCommand Command.op Command.a Command.b Command.c Command.x Command.y
  apply BitVec.eq_of_getLsbD_eq
  intro i hi
  simp only [BitVec.getLsbD_append, BitVec.getLsbD_extractLsb']
  repeat' split
  all_goals (rw [decide_eq_true (by omega)]; simp only [Bool.true_and]; congr 1; omega)

/-- A mask meets a packed command field by field. -/
theorem packCommand_and (op a b c op' a' b' c' : Byte) (x y x' y' : Word) :
    packCommand op a b c x y &&& packCommand op' a' b' c' x' y'
      = packCommand (op &&& op') (a &&& a') (b &&& b') (c &&& c') (x &&& x') (y &&& y') := by
  unfold packCommand
  apply BitVec.eq_of_getLsbD_eq
  intro i _
  simp only [BitVec.getLsbD_and, BitVec.getLsbD_append]
  repeat' split
  all_goals rfl

theorem packCommand_inj {op a b c op' a' b' c' : Byte} {x y x' y' : Word} :
    packCommand op a b c x y = packCommand op' a' b' c' x' y'
      ↔ op = op' ∧ a = a' ∧ b = b' ∧ c = c' ∧ x = x' ∧ y = y' := by
  constructor
  · intro h
    have h1 := congrArg Command.op h
    have h2 := congrArg Command.a h
    have h3 := congrArg Command.b h
    have h4 := congrArg Command.c h
    have h5 := congrArg Command.x h
    have h6 := congrArg Command.y h
    simp only [op_packCommand, a_packCommand, b_packCommand, c_packCommand, x_packCommand, y_packCommand] at h1 h2 h3 h4 h5 h6
    exact ⟨h1, h2, h3, h4, h5, h6⟩
  · rintro ⟨rfl, rfl, rfl, rfl, rfl, rfl⟩; rfl

/-- The bytes of a command, read as the plan ROM's words, give the command back (R53, R77). -/
theorem decode_bytesOfCommand (k : Command) : decode (bytesOfCommand k) = decodeCommand k := by
  show decodeCommand _ = decodeCommand k
  congr 1
  unfold commandOfWords wordOfBytes
  apply BitVec.eq_of_getLsbD_eq
  intro i hi
  simp only [BitVec.getLsbD_append, BitVec.getLsbD_extractLsb']
  repeat' split
  all_goals (rw [decide_eq_true (by omega)]; simp only [Bool.true_and]; congr 1; omega)

end Sys2Proof
end

