-- ==== Sys2Proof/Laws/State.lean ====
section
/-! SUPPORT. One lemma per field per update of the state, each true by rfl: what each named update leaves in each field.
Where an update computes a table, its own reading law stands in Laws/Ops.lean. -/

namespace Sys2Proof.Machine

/-! ## `raise` -/

@[simp] theorem raise_st (c : Cause) (s : State) : (s.raise c).st = .doneFail := rfl
@[simp] theorem raise_pc (c : Cause) (s : State) : (s.raise c).pc = s.pc := rfl
@[simp] theorem raise_cause (c : Cause) (s : State) : (s.raise c).cause = c.code := rfl
@[simp] theorem raise_cap0 (c : Cause) (s : State) : (s.raise c).cap0 = s.cap0 := rfl
@[simp] theorem raise_cap1 (c : Cause) (s : State) : (s.raise c).cap1 = s.cap1 := rfl
@[simp] theorem raise_capValid0 (c : Cause) (s : State) : (s.raise c).capValid0 = s.capValid0 := rfl
@[simp] theorem raise_capValid1 (c : Cause) (s : State) : (s.raise c).capValid1 = s.capValid1 := rfl
@[simp] theorem raise_chipName (c : Cause) (s : State) : (s.raise c).chipName = s.chipName := rfl
@[simp] theorem raise_chipVer (c : Cause) (s : State) : (s.raise c).chipVer = s.chipVer := rfl
@[simp] theorem raise_laneSel (c : Cause) (s : State) : (s.raise c).laneSel = s.laneSel := rfl
@[simp] theorem raise_domSet (c : Cause) (s : State) : (s.raise c).domSet = s.domSet := rfl
@[simp] theorem raise_mem (c : Cause) (s : State) : (s.raise c).mem = s.mem := rfl
@[simp] theorem raise_pmic (c : Cause) (s : State) : (s.raise c).pmic = s.pmic := rfl
@[simp] theorem raise_pins (c : Cause) (s : State) : (s.raise c).pins = s.pins := rfl
@[simp] theorem raise_laneMode (c : Cause) (s : State) : (s.raise c).laneMode = s.laneMode := rfl
@[simp] theorem raise_domLevel (c : Cause) (s : State) : (s.raise c).domLevel = s.domLevel := rfl
@[simp] theorem raise_log (c : Cause) (s : State) : (s.raise c).log = s.log := rfl
@[simp] theorem raise_planRom (c : Cause) (s : State) : (s.raise c).planRom = s.planRom := rfl
@[simp] theorem raise_planLen (c : Cause) (s : State) : (s.raise c).planLen = s.planLen := rfl
@[simp] theorem raise_cfg (c : Cause) (s : State) : (s.raise c).cfg = s.cfg := rfl
@[simp] theorem raise_answers (c : Cause) (s : State) : (s.raise c).answers = s.answers := rfl
@[simp] theorem raise_backend (c : Cause) (s : State) : (s.raise c).backend = s.backend := rfl
@[simp] theorem raise_calls (c : Cause) (s : State) : (s.raise c).calls = s.calls := rfl
@[simp] theorem raise_host (c : Cause) (s : State) : (s.raise c).host = s.host := rfl
@[simp] theorem raise_launched (c : Cause) (s : State) : (s.raise c).launched = s.launched := rfl

/-! ## `advance` -/

@[simp] theorem advance_st (s : State) : (s.advance).st = s.st := rfl
@[simp] theorem advance_pc (s : State) : (s.advance).pc = s.pc + 1 := rfl
@[simp] theorem advance_cause (s : State) : (s.advance).cause = s.cause := rfl
@[simp] theorem advance_cap0 (s : State) : (s.advance).cap0 = s.cap0 := rfl
@[simp] theorem advance_cap1 (s : State) : (s.advance).cap1 = s.cap1 := rfl
@[simp] theorem advance_capValid0 (s : State) : (s.advance).capValid0 = s.capValid0 := rfl
@[simp] theorem advance_capValid1 (s : State) : (s.advance).capValid1 = s.capValid1 := rfl
@[simp] theorem advance_chipName (s : State) : (s.advance).chipName = s.chipName := rfl
@[simp] theorem advance_chipVer (s : State) : (s.advance).chipVer = s.chipVer := rfl
@[simp] theorem advance_laneSel (s : State) : (s.advance).laneSel = s.laneSel := rfl
@[simp] theorem advance_domSet (s : State) : (s.advance).domSet = s.domSet := rfl
@[simp] theorem advance_mem (s : State) : (s.advance).mem = s.mem := rfl
@[simp] theorem advance_pmic (s : State) : (s.advance).pmic = s.pmic := rfl
@[simp] theorem advance_pins (s : State) : (s.advance).pins = s.pins := rfl
@[simp] theorem advance_laneMode (s : State) : (s.advance).laneMode = s.laneMode := rfl
@[simp] theorem advance_domLevel (s : State) : (s.advance).domLevel = s.domLevel := rfl
@[simp] theorem advance_log (s : State) : (s.advance).log = s.log := rfl
@[simp] theorem advance_planRom (s : State) : (s.advance).planRom = s.planRom := rfl
@[simp] theorem advance_planLen (s : State) : (s.advance).planLen = s.planLen := rfl
@[simp] theorem advance_cfg (s : State) : (s.advance).cfg = s.cfg := rfl
@[simp] theorem advance_answers (s : State) : (s.advance).answers = s.answers := rfl
@[simp] theorem advance_backend (s : State) : (s.advance).backend = s.backend := rfl
@[simp] theorem advance_calls (s : State) : (s.advance).calls = s.calls := rfl
@[simp] theorem advance_host (s : State) : (s.advance).host = s.host := rfl
@[simp] theorem advance_launched (s : State) : (s.advance).launched = s.launched := rfl

/-! ## `emit` -/

@[simp] theorem emit_st (e : Event) (s : State) : (s.emit e).st = s.st := rfl
@[simp] theorem emit_pc (e : Event) (s : State) : (s.emit e).pc = s.pc := rfl
@[simp] theorem emit_cause (e : Event) (s : State) : (s.emit e).cause = s.cause := rfl
@[simp] theorem emit_cap0 (e : Event) (s : State) : (s.emit e).cap0 = s.cap0 := rfl
@[simp] theorem emit_cap1 (e : Event) (s : State) : (s.emit e).cap1 = s.cap1 := rfl
@[simp] theorem emit_capValid0 (e : Event) (s : State) : (s.emit e).capValid0 = s.capValid0 := rfl
@[simp] theorem emit_capValid1 (e : Event) (s : State) : (s.emit e).capValid1 = s.capValid1 := rfl
@[simp] theorem emit_chipName (e : Event) (s : State) : (s.emit e).chipName = s.chipName := rfl
@[simp] theorem emit_chipVer (e : Event) (s : State) : (s.emit e).chipVer = s.chipVer := rfl
@[simp] theorem emit_laneSel (e : Event) (s : State) : (s.emit e).laneSel = s.laneSel := rfl
@[simp] theorem emit_domSet (e : Event) (s : State) : (s.emit e).domSet = s.domSet := rfl
@[simp] theorem emit_mem (e : Event) (s : State) : (s.emit e).mem = s.mem := rfl
@[simp] theorem emit_pmic (e : Event) (s : State) : (s.emit e).pmic = s.pmic := rfl
@[simp] theorem emit_pins (e : Event) (s : State) : (s.emit e).pins = s.pins := rfl
@[simp] theorem emit_laneMode (e : Event) (s : State) : (s.emit e).laneMode = s.laneMode := rfl
@[simp] theorem emit_domLevel (e : Event) (s : State) : (s.emit e).domLevel = s.domLevel := rfl
@[simp] theorem emit_log (e : Event) (s : State) : (s.emit e).log = s.log ++ [e] := rfl
@[simp] theorem emit_planRom (e : Event) (s : State) : (s.emit e).planRom = s.planRom := rfl
@[simp] theorem emit_planLen (e : Event) (s : State) : (s.emit e).planLen = s.planLen := rfl
@[simp] theorem emit_cfg (e : Event) (s : State) : (s.emit e).cfg = s.cfg := rfl
@[simp] theorem emit_answers (e : Event) (s : State) : (s.emit e).answers = s.answers := rfl
@[simp] theorem emit_backend (e : Event) (s : State) : (s.emit e).backend = s.backend := rfl
@[simp] theorem emit_calls (e : Event) (s : State) : (s.emit e).calls = s.calls := rfl
@[simp] theorem emit_host (e : Event) (s : State) : (s.emit e).host = s.host := rfl
@[simp] theorem emit_launched (e : Event) (s : State) : (s.emit e).launched = s.launched := rfl

/-! ## `asked` -/

@[simp] theorem asked_st (s : State) : (s.asked).st = s.st := rfl
@[simp] theorem asked_pc (s : State) : (s.asked).pc = s.pc := rfl
@[simp] theorem asked_cause (s : State) : (s.asked).cause = s.cause := rfl
@[simp] theorem asked_cap0 (s : State) : (s.asked).cap0 = s.cap0 := rfl
@[simp] theorem asked_cap1 (s : State) : (s.asked).cap1 = s.cap1 := rfl
@[simp] theorem asked_capValid0 (s : State) : (s.asked).capValid0 = s.capValid0 := rfl
@[simp] theorem asked_capValid1 (s : State) : (s.asked).capValid1 = s.capValid1 := rfl
@[simp] theorem asked_chipName (s : State) : (s.asked).chipName = s.chipName := rfl
@[simp] theorem asked_chipVer (s : State) : (s.asked).chipVer = s.chipVer := rfl
@[simp] theorem asked_laneSel (s : State) : (s.asked).laneSel = s.laneSel := rfl
@[simp] theorem asked_domSet (s : State) : (s.asked).domSet = s.domSet := rfl
@[simp] theorem asked_mem (s : State) : (s.asked).mem = s.mem := rfl
@[simp] theorem asked_pmic (s : State) : (s.asked).pmic = s.pmic := rfl
@[simp] theorem asked_pins (s : State) : (s.asked).pins = s.pins := rfl
@[simp] theorem asked_laneMode (s : State) : (s.asked).laneMode = s.laneMode := rfl
@[simp] theorem asked_domLevel (s : State) : (s.asked).domLevel = s.domLevel := rfl
@[simp] theorem asked_log (s : State) : (s.asked).log = s.log := rfl
@[simp] theorem asked_planRom (s : State) : (s.asked).planRom = s.planRom := rfl
@[simp] theorem asked_planLen (s : State) : (s.asked).planLen = s.planLen := rfl
@[simp] theorem asked_cfg (s : State) : (s.asked).cfg = s.cfg := rfl
@[simp] theorem asked_answers (s : State) : (s.asked).answers = s.answers.tail := rfl
@[simp] theorem asked_backend (s : State) : (s.asked).backend = s.backend := rfl
@[simp] theorem asked_calls (s : State) : (s.asked).calls = s.calls + 1 := rfl
@[simp] theorem asked_host (s : State) : (s.asked).host = s.host := rfl
@[simp] theorem asked_launched (s : State) : (s.asked).launched = s.launched := rfl

/-! ## `setCapture` -/

@[simp] theorem setCapture_st (i : BitVec 1) (b : Byte) (s : State) : (s.setCapture i b).st = s.st := rfl
@[simp] theorem setCapture_pc (i : BitVec 1) (b : Byte) (s : State) : (s.setCapture i b).pc = s.pc := rfl
@[simp] theorem setCapture_cause (i : BitVec 1) (b : Byte) (s : State) : (s.setCapture i b).cause = s.cause := rfl
@[simp] theorem setCapture_chipName (i : BitVec 1) (b : Byte) (s : State) : (s.setCapture i b).chipName = s.chipName := rfl
@[simp] theorem setCapture_chipVer (i : BitVec 1) (b : Byte) (s : State) : (s.setCapture i b).chipVer = s.chipVer := rfl
@[simp] theorem setCapture_laneSel (i : BitVec 1) (b : Byte) (s : State) : (s.setCapture i b).laneSel = s.laneSel := rfl
@[simp] theorem setCapture_domSet (i : BitVec 1) (b : Byte) (s : State) : (s.setCapture i b).domSet = s.domSet := rfl
@[simp] theorem setCapture_mem (i : BitVec 1) (b : Byte) (s : State) : (s.setCapture i b).mem = s.mem := rfl
@[simp] theorem setCapture_pmic (i : BitVec 1) (b : Byte) (s : State) : (s.setCapture i b).pmic = s.pmic := rfl
@[simp] theorem setCapture_pins (i : BitVec 1) (b : Byte) (s : State) : (s.setCapture i b).pins = s.pins := rfl
@[simp] theorem setCapture_laneMode (i : BitVec 1) (b : Byte) (s : State) : (s.setCapture i b).laneMode = s.laneMode := rfl
@[simp] theorem setCapture_domLevel (i : BitVec 1) (b : Byte) (s : State) : (s.setCapture i b).domLevel = s.domLevel := rfl
@[simp] theorem setCapture_log (i : BitVec 1) (b : Byte) (s : State) : (s.setCapture i b).log = s.log := rfl
@[simp] theorem setCapture_planRom (i : BitVec 1) (b : Byte) (s : State) : (s.setCapture i b).planRom = s.planRom := rfl
@[simp] theorem setCapture_planLen (i : BitVec 1) (b : Byte) (s : State) : (s.setCapture i b).planLen = s.planLen := rfl
@[simp] theorem setCapture_cfg (i : BitVec 1) (b : Byte) (s : State) : (s.setCapture i b).cfg = s.cfg := rfl
@[simp] theorem setCapture_answers (i : BitVec 1) (b : Byte) (s : State) : (s.setCapture i b).answers = s.answers := rfl
@[simp] theorem setCapture_backend (i : BitVec 1) (b : Byte) (s : State) : (s.setCapture i b).backend = s.backend := rfl
@[simp] theorem setCapture_calls (i : BitVec 1) (b : Byte) (s : State) : (s.setCapture i b).calls = s.calls := rfl
@[simp] theorem setCapture_host (i : BitVec 1) (b : Byte) (s : State) : (s.setCapture i b).host = s.host := rfl
@[simp] theorem setCapture_launched (i : BitVec 1) (b : Byte) (s : State) : (s.setCapture i b).launched = s.launched := rfl

/-! ## `setIdentity` -/

@[simp] theorem setIdentity_st (s : State) : (s.setIdentity).st = s.st := rfl
@[simp] theorem setIdentity_pc (s : State) : (s.setIdentity).pc = s.pc := rfl
@[simp] theorem setIdentity_cause (s : State) : (s.setIdentity).cause = s.cause := rfl
@[simp] theorem setIdentity_cap0 (s : State) : (s.setIdentity).cap0 = s.cap0 := rfl
@[simp] theorem setIdentity_cap1 (s : State) : (s.setIdentity).cap1 = s.cap1 := rfl
@[simp] theorem setIdentity_capValid0 (s : State) : (s.setIdentity).capValid0 = s.capValid0 := rfl
@[simp] theorem setIdentity_capValid1 (s : State) : (s.setIdentity).capValid1 = s.capValid1 := rfl
@[simp] theorem setIdentity_chipName (s : State) : (s.setIdentity).chipName = decodeName (s.cap 0) (s.cap 1) := rfl
@[simp] theorem setIdentity_chipVer (s : State) : (s.setIdentity).chipVer = decodeVer (s.cap 1) := rfl
@[simp] theorem setIdentity_laneSel (s : State) : (s.setIdentity).laneSel = s.laneSel := rfl
@[simp] theorem setIdentity_domSet (s : State) : (s.setIdentity).domSet = s.domSet := rfl
@[simp] theorem setIdentity_mem (s : State) : (s.setIdentity).mem = s.mem := rfl
@[simp] theorem setIdentity_pmic (s : State) : (s.setIdentity).pmic = s.pmic := rfl
@[simp] theorem setIdentity_pins (s : State) : (s.setIdentity).pins = s.pins := rfl
@[simp] theorem setIdentity_laneMode (s : State) : (s.setIdentity).laneMode = s.laneMode := rfl
@[simp] theorem setIdentity_domLevel (s : State) : (s.setIdentity).domLevel = s.domLevel := rfl
@[simp] theorem setIdentity_log (s : State) : (s.setIdentity).log = s.log := rfl
@[simp] theorem setIdentity_planRom (s : State) : (s.setIdentity).planRom = s.planRom := rfl
@[simp] theorem setIdentity_planLen (s : State) : (s.setIdentity).planLen = s.planLen := rfl
@[simp] theorem setIdentity_cfg (s : State) : (s.setIdentity).cfg = s.cfg := rfl
@[simp] theorem setIdentity_answers (s : State) : (s.setIdentity).answers = s.answers := rfl
@[simp] theorem setIdentity_backend (s : State) : (s.setIdentity).backend = s.backend := rfl
@[simp] theorem setIdentity_calls (s : State) : (s.setIdentity).calls = s.calls := rfl
@[simp] theorem setIdentity_host (s : State) : (s.setIdentity).host = s.host := rfl
@[simp] theorem setIdentity_launched (s : State) : (s.setIdentity).launched = s.launched := rfl

/-! ## `addLane` -/

@[simp] theorem addLane_st (l : Byte) (s : State) : (s.addLane l).st = s.st := rfl
@[simp] theorem addLane_pc (l : Byte) (s : State) : (s.addLane l).pc = s.pc := rfl
@[simp] theorem addLane_cause (l : Byte) (s : State) : (s.addLane l).cause = s.cause := rfl
@[simp] theorem addLane_cap0 (l : Byte) (s : State) : (s.addLane l).cap0 = s.cap0 := rfl
@[simp] theorem addLane_cap1 (l : Byte) (s : State) : (s.addLane l).cap1 = s.cap1 := rfl
@[simp] theorem addLane_capValid0 (l : Byte) (s : State) : (s.addLane l).capValid0 = s.capValid0 := rfl
@[simp] theorem addLane_capValid1 (l : Byte) (s : State) : (s.addLane l).capValid1 = s.capValid1 := rfl
@[simp] theorem addLane_chipName (l : Byte) (s : State) : (s.addLane l).chipName = s.chipName := rfl
@[simp] theorem addLane_chipVer (l : Byte) (s : State) : (s.addLane l).chipVer = s.chipVer := rfl
@[simp] theorem addLane_laneSel (l : Byte) (s : State) : (s.addLane l).laneSel = insertId s.laneSel l := rfl
@[simp] theorem addLane_domSet (l : Byte) (s : State) : (s.addLane l).domSet = s.domSet := rfl
@[simp] theorem addLane_mem (l : Byte) (s : State) : (s.addLane l).mem = s.mem := rfl
@[simp] theorem addLane_pmic (l : Byte) (s : State) : (s.addLane l).pmic = s.pmic := rfl
@[simp] theorem addLane_pins (l : Byte) (s : State) : (s.addLane l).pins = s.pins := rfl
@[simp] theorem addLane_laneMode (l : Byte) (s : State) : (s.addLane l).laneMode = s.laneMode := rfl
@[simp] theorem addLane_domLevel (l : Byte) (s : State) : (s.addLane l).domLevel = s.domLevel := rfl
@[simp] theorem addLane_log (l : Byte) (s : State) : (s.addLane l).log = s.log := rfl
@[simp] theorem addLane_planRom (l : Byte) (s : State) : (s.addLane l).planRom = s.planRom := rfl
@[simp] theorem addLane_planLen (l : Byte) (s : State) : (s.addLane l).planLen = s.planLen := rfl
@[simp] theorem addLane_cfg (l : Byte) (s : State) : (s.addLane l).cfg = s.cfg := rfl
@[simp] theorem addLane_answers (l : Byte) (s : State) : (s.addLane l).answers = s.answers := rfl
@[simp] theorem addLane_backend (l : Byte) (s : State) : (s.addLane l).backend = s.backend := rfl
@[simp] theorem addLane_calls (l : Byte) (s : State) : (s.addLane l).calls = s.calls := rfl
@[simp] theorem addLane_host (l : Byte) (s : State) : (s.addLane l).host = s.host := rfl
@[simp] theorem addLane_launched (l : Byte) (s : State) : (s.addLane l).launched = s.launched := rfl

/-! ## `addDom` -/

@[simp] theorem addDom_st (d : Byte) (s : State) : (s.addDom d).st = s.st := rfl
@[simp] theorem addDom_pc (d : Byte) (s : State) : (s.addDom d).pc = s.pc := rfl
@[simp] theorem addDom_cause (d : Byte) (s : State) : (s.addDom d).cause = s.cause := rfl
@[simp] theorem addDom_cap0 (d : Byte) (s : State) : (s.addDom d).cap0 = s.cap0 := rfl
@[simp] theorem addDom_cap1 (d : Byte) (s : State) : (s.addDom d).cap1 = s.cap1 := rfl
@[simp] theorem addDom_capValid0 (d : Byte) (s : State) : (s.addDom d).capValid0 = s.capValid0 := rfl
@[simp] theorem addDom_capValid1 (d : Byte) (s : State) : (s.addDom d).capValid1 = s.capValid1 := rfl
@[simp] theorem addDom_chipName (d : Byte) (s : State) : (s.addDom d).chipName = s.chipName := rfl
@[simp] theorem addDom_chipVer (d : Byte) (s : State) : (s.addDom d).chipVer = s.chipVer := rfl
@[simp] theorem addDom_laneSel (d : Byte) (s : State) : (s.addDom d).laneSel = s.laneSel := rfl
@[simp] theorem addDom_domSet (d : Byte) (s : State) : (s.addDom d).domSet = insertId s.domSet d := rfl
@[simp] theorem addDom_mem (d : Byte) (s : State) : (s.addDom d).mem = s.mem := rfl
@[simp] theorem addDom_pmic (d : Byte) (s : State) : (s.addDom d).pmic = s.pmic := rfl
@[simp] theorem addDom_pins (d : Byte) (s : State) : (s.addDom d).pins = s.pins := rfl
@[simp] theorem addDom_laneMode (d : Byte) (s : State) : (s.addDom d).laneMode = s.laneMode := rfl
@[simp] theorem addDom_domLevel (d : Byte) (s : State) : (s.addDom d).domLevel = s.domLevel := rfl
@[simp] theorem addDom_log (d : Byte) (s : State) : (s.addDom d).log = s.log := rfl
@[simp] theorem addDom_planRom (d : Byte) (s : State) : (s.addDom d).planRom = s.planRom := rfl
@[simp] theorem addDom_planLen (d : Byte) (s : State) : (s.addDom d).planLen = s.planLen := rfl
@[simp] theorem addDom_cfg (d : Byte) (s : State) : (s.addDom d).cfg = s.cfg := rfl
@[simp] theorem addDom_answers (d : Byte) (s : State) : (s.addDom d).answers = s.answers := rfl
@[simp] theorem addDom_backend (d : Byte) (s : State) : (s.addDom d).backend = s.backend := rfl
@[simp] theorem addDom_calls (d : Byte) (s : State) : (s.addDom d).calls = s.calls := rfl
@[simp] theorem addDom_host (d : Byte) (s : State) : (s.addDom d).host = s.host := rfl
@[simp] theorem addDom_launched (d : Byte) (s : State) : (s.addDom d).launched = s.launched := rfl

/-! ## `memWrite` -/

@[simp] theorem memWrite_st (a w : Word) (s : State) : (s.memWrite a w).st = s.st := rfl
@[simp] theorem memWrite_pc (a w : Word) (s : State) : (s.memWrite a w).pc = s.pc := rfl
@[simp] theorem memWrite_cause (a w : Word) (s : State) : (s.memWrite a w).cause = s.cause := rfl
@[simp] theorem memWrite_cap0 (a w : Word) (s : State) : (s.memWrite a w).cap0 = s.cap0 := rfl
@[simp] theorem memWrite_cap1 (a w : Word) (s : State) : (s.memWrite a w).cap1 = s.cap1 := rfl
@[simp] theorem memWrite_capValid0 (a w : Word) (s : State) : (s.memWrite a w).capValid0 = s.capValid0 := rfl
@[simp] theorem memWrite_capValid1 (a w : Word) (s : State) : (s.memWrite a w).capValid1 = s.capValid1 := rfl
@[simp] theorem memWrite_chipName (a w : Word) (s : State) : (s.memWrite a w).chipName = s.chipName := rfl
@[simp] theorem memWrite_chipVer (a w : Word) (s : State) : (s.memWrite a w).chipVer = s.chipVer := rfl
@[simp] theorem memWrite_laneSel (a w : Word) (s : State) : (s.memWrite a w).laneSel = s.laneSel := rfl
@[simp] theorem memWrite_domSet (a w : Word) (s : State) : (s.memWrite a w).domSet = s.domSet := rfl
@[simp] theorem memWrite_pmic (a w : Word) (s : State) : (s.memWrite a w).pmic = s.pmic := rfl
@[simp] theorem memWrite_pins (a w : Word) (s : State) : (s.memWrite a w).pins = s.pins := rfl
@[simp] theorem memWrite_laneMode (a w : Word) (s : State) : (s.memWrite a w).laneMode = s.laneMode := rfl
@[simp] theorem memWrite_domLevel (a w : Word) (s : State) : (s.memWrite a w).domLevel = s.domLevel := rfl
@[simp] theorem memWrite_log (a w : Word) (s : State) : (s.memWrite a w).log = s.log := rfl
@[simp] theorem memWrite_planRom (a w : Word) (s : State) : (s.memWrite a w).planRom = s.planRom := rfl
@[simp] theorem memWrite_planLen (a w : Word) (s : State) : (s.memWrite a w).planLen = s.planLen := rfl
@[simp] theorem memWrite_cfg (a w : Word) (s : State) : (s.memWrite a w).cfg = s.cfg := rfl
@[simp] theorem memWrite_answers (a w : Word) (s : State) : (s.memWrite a w).answers = s.answers := rfl
@[simp] theorem memWrite_backend (a w : Word) (s : State) : (s.memWrite a w).backend = s.backend := rfl
@[simp] theorem memWrite_calls (a w : Word) (s : State) : (s.memWrite a w).calls = s.calls := rfl
@[simp] theorem memWrite_host (a w : Word) (s : State) : (s.memWrite a w).host = s.host := rfl
@[simp] theorem memWrite_launched (a w : Word) (s : State) : (s.memWrite a w).launched = s.launched := rfl

/-! ## `setPin` -/

@[simp] theorem setPin_st (b p : Byte) (v : Pin) (s : State) : (s.setPin b p v).st = s.st := rfl
@[simp] theorem setPin_pc (b p : Byte) (v : Pin) (s : State) : (s.setPin b p v).pc = s.pc := rfl
@[simp] theorem setPin_cause (b p : Byte) (v : Pin) (s : State) : (s.setPin b p v).cause = s.cause := rfl
@[simp] theorem setPin_cap0 (b p : Byte) (v : Pin) (s : State) : (s.setPin b p v).cap0 = s.cap0 := rfl
@[simp] theorem setPin_cap1 (b p : Byte) (v : Pin) (s : State) : (s.setPin b p v).cap1 = s.cap1 := rfl
@[simp] theorem setPin_capValid0 (b p : Byte) (v : Pin) (s : State) : (s.setPin b p v).capValid0 = s.capValid0 := rfl
@[simp] theorem setPin_capValid1 (b p : Byte) (v : Pin) (s : State) : (s.setPin b p v).capValid1 = s.capValid1 := rfl
@[simp] theorem setPin_chipName (b p : Byte) (v : Pin) (s : State) : (s.setPin b p v).chipName = s.chipName := rfl
@[simp] theorem setPin_chipVer (b p : Byte) (v : Pin) (s : State) : (s.setPin b p v).chipVer = s.chipVer := rfl
@[simp] theorem setPin_laneSel (b p : Byte) (v : Pin) (s : State) : (s.setPin b p v).laneSel = s.laneSel := rfl
@[simp] theorem setPin_domSet (b p : Byte) (v : Pin) (s : State) : (s.setPin b p v).domSet = s.domSet := rfl
@[simp] theorem setPin_mem (b p : Byte) (v : Pin) (s : State) : (s.setPin b p v).mem = s.mem := rfl
@[simp] theorem setPin_pmic (b p : Byte) (v : Pin) (s : State) : (s.setPin b p v).pmic = s.pmic := rfl
@[simp] theorem setPin_laneMode (b p : Byte) (v : Pin) (s : State) : (s.setPin b p v).laneMode = s.laneMode := rfl
@[simp] theorem setPin_domLevel (b p : Byte) (v : Pin) (s : State) : (s.setPin b p v).domLevel = s.domLevel := rfl
@[simp] theorem setPin_log (b p : Byte) (v : Pin) (s : State) : (s.setPin b p v).log = s.log := rfl
@[simp] theorem setPin_planRom (b p : Byte) (v : Pin) (s : State) : (s.setPin b p v).planRom = s.planRom := rfl
@[simp] theorem setPin_planLen (b p : Byte) (v : Pin) (s : State) : (s.setPin b p v).planLen = s.planLen := rfl
@[simp] theorem setPin_cfg (b p : Byte) (v : Pin) (s : State) : (s.setPin b p v).cfg = s.cfg := rfl
@[simp] theorem setPin_answers (b p : Byte) (v : Pin) (s : State) : (s.setPin b p v).answers = s.answers := rfl
@[simp] theorem setPin_backend (b p : Byte) (v : Pin) (s : State) : (s.setPin b p v).backend = s.backend := rfl
@[simp] theorem setPin_calls (b p : Byte) (v : Pin) (s : State) : (s.setPin b p v).calls = s.calls := rfl
@[simp] theorem setPin_host (b p : Byte) (v : Pin) (s : State) : (s.setPin b p v).host = s.host := rfl
@[simp] theorem setPin_launched (b p : Byte) (v : Pin) (s : State) : (s.setPin b p v).launched = s.launched := rfl

/-! ## `applyDescs` -/

@[simp] theorem applyDescs_st (ds : List Word) (s : State) : (s.applyDescs ds).st = s.st := rfl
@[simp] theorem applyDescs_pc (ds : List Word) (s : State) : (s.applyDescs ds).pc = s.pc := rfl
@[simp] theorem applyDescs_cause (ds : List Word) (s : State) : (s.applyDescs ds).cause = s.cause := rfl
@[simp] theorem applyDescs_cap0 (ds : List Word) (s : State) : (s.applyDescs ds).cap0 = s.cap0 := rfl
@[simp] theorem applyDescs_cap1 (ds : List Word) (s : State) : (s.applyDescs ds).cap1 = s.cap1 := rfl
@[simp] theorem applyDescs_capValid0 (ds : List Word) (s : State) : (s.applyDescs ds).capValid0 = s.capValid0 := rfl
@[simp] theorem applyDescs_capValid1 (ds : List Word) (s : State) : (s.applyDescs ds).capValid1 = s.capValid1 := rfl
@[simp] theorem applyDescs_chipName (ds : List Word) (s : State) : (s.applyDescs ds).chipName = s.chipName := rfl
@[simp] theorem applyDescs_chipVer (ds : List Word) (s : State) : (s.applyDescs ds).chipVer = s.chipVer := rfl
@[simp] theorem applyDescs_laneSel (ds : List Word) (s : State) : (s.applyDescs ds).laneSel = s.laneSel := rfl
@[simp] theorem applyDescs_domSet (ds : List Word) (s : State) : (s.applyDescs ds).domSet = s.domSet := rfl
@[simp] theorem applyDescs_mem (ds : List Word) (s : State) : (s.applyDescs ds).mem = s.mem := rfl
@[simp] theorem applyDescs_pmic (ds : List Word) (s : State) : (s.applyDescs ds).pmic = s.pmic := rfl
@[simp] theorem applyDescs_pins (ds : List Word) (s : State) : (s.applyDescs ds).pins = ds.foldl (fun pins d => applyDesc d pins) s.pins := rfl
@[simp] theorem applyDescs_laneMode (ds : List Word) (s : State) : (s.applyDescs ds).laneMode = s.laneMode := rfl
@[simp] theorem applyDescs_domLevel (ds : List Word) (s : State) : (s.applyDescs ds).domLevel = s.domLevel := rfl
@[simp] theorem applyDescs_log (ds : List Word) (s : State) : (s.applyDescs ds).log = s.log := rfl
@[simp] theorem applyDescs_planRom (ds : List Word) (s : State) : (s.applyDescs ds).planRom = s.planRom := rfl
@[simp] theorem applyDescs_planLen (ds : List Word) (s : State) : (s.applyDescs ds).planLen = s.planLen := rfl
@[simp] theorem applyDescs_cfg (ds : List Word) (s : State) : (s.applyDescs ds).cfg = s.cfg := rfl
@[simp] theorem applyDescs_answers (ds : List Word) (s : State) : (s.applyDescs ds).answers = s.answers := rfl
@[simp] theorem applyDescs_backend (ds : List Word) (s : State) : (s.applyDescs ds).backend = s.backend := rfl
@[simp] theorem applyDescs_calls (ds : List Word) (s : State) : (s.applyDescs ds).calls = s.calls := rfl
@[simp] theorem applyDescs_host (ds : List Word) (s : State) : (s.applyDescs ds).host = s.host := rfl
@[simp] theorem applyDescs_launched (ds : List Word) (s : State) : (s.applyDescs ds).launched = s.launched := rfl

/-! ## `setMode` -/

@[simp] theorem setMode_st (l : Byte) (m : LaneMode) (s : State) : (s.setMode l m).st = s.st := rfl
@[simp] theorem setMode_pc (l : Byte) (m : LaneMode) (s : State) : (s.setMode l m).pc = s.pc := rfl
@[simp] theorem setMode_cause (l : Byte) (m : LaneMode) (s : State) : (s.setMode l m).cause = s.cause := rfl
@[simp] theorem setMode_cap0 (l : Byte) (m : LaneMode) (s : State) : (s.setMode l m).cap0 = s.cap0 := rfl
@[simp] theorem setMode_cap1 (l : Byte) (m : LaneMode) (s : State) : (s.setMode l m).cap1 = s.cap1 := rfl
@[simp] theorem setMode_capValid0 (l : Byte) (m : LaneMode) (s : State) : (s.setMode l m).capValid0 = s.capValid0 := rfl
@[simp] theorem setMode_capValid1 (l : Byte) (m : LaneMode) (s : State) : (s.setMode l m).capValid1 = s.capValid1 := rfl
@[simp] theorem setMode_chipName (l : Byte) (m : LaneMode) (s : State) : (s.setMode l m).chipName = s.chipName := rfl
@[simp] theorem setMode_chipVer (l : Byte) (m : LaneMode) (s : State) : (s.setMode l m).chipVer = s.chipVer := rfl
@[simp] theorem setMode_laneSel (l : Byte) (m : LaneMode) (s : State) : (s.setMode l m).laneSel = s.laneSel := rfl
@[simp] theorem setMode_domSet (l : Byte) (m : LaneMode) (s : State) : (s.setMode l m).domSet = s.domSet := rfl
@[simp] theorem setMode_mem (l : Byte) (m : LaneMode) (s : State) : (s.setMode l m).mem = s.mem := rfl
@[simp] theorem setMode_pmic (l : Byte) (m : LaneMode) (s : State) : (s.setMode l m).pmic = s.pmic := rfl
@[simp] theorem setMode_pins (l : Byte) (m : LaneMode) (s : State) : (s.setMode l m).pins = s.pins := rfl
@[simp] theorem setMode_domLevel (l : Byte) (m : LaneMode) (s : State) : (s.setMode l m).domLevel = s.domLevel := rfl
@[simp] theorem setMode_log (l : Byte) (m : LaneMode) (s : State) : (s.setMode l m).log = s.log := rfl
@[simp] theorem setMode_planRom (l : Byte) (m : LaneMode) (s : State) : (s.setMode l m).planRom = s.planRom := rfl
@[simp] theorem setMode_planLen (l : Byte) (m : LaneMode) (s : State) : (s.setMode l m).planLen = s.planLen := rfl
@[simp] theorem setMode_cfg (l : Byte) (m : LaneMode) (s : State) : (s.setMode l m).cfg = s.cfg := rfl
@[simp] theorem setMode_answers (l : Byte) (m : LaneMode) (s : State) : (s.setMode l m).answers = s.answers := rfl
@[simp] theorem setMode_backend (l : Byte) (m : LaneMode) (s : State) : (s.setMode l m).backend = s.backend := rfl
@[simp] theorem setMode_calls (l : Byte) (m : LaneMode) (s : State) : (s.setMode l m).calls = s.calls := rfl
@[simp] theorem setMode_host (l : Byte) (m : LaneMode) (s : State) : (s.setMode l m).host = s.host := rfl
@[simp] theorem setMode_launched (l : Byte) (m : LaneMode) (s : State) : (s.setMode l m).launched = s.launched := rfl

/-! ## `setLevel` -/

@[simp] theorem setLevel_st (d : Byte) (v : VLevel) (s : State) : (s.setLevel d v).st = s.st := rfl
@[simp] theorem setLevel_pc (d : Byte) (v : VLevel) (s : State) : (s.setLevel d v).pc = s.pc := rfl
@[simp] theorem setLevel_cause (d : Byte) (v : VLevel) (s : State) : (s.setLevel d v).cause = s.cause := rfl
@[simp] theorem setLevel_cap0 (d : Byte) (v : VLevel) (s : State) : (s.setLevel d v).cap0 = s.cap0 := rfl
@[simp] theorem setLevel_cap1 (d : Byte) (v : VLevel) (s : State) : (s.setLevel d v).cap1 = s.cap1 := rfl
@[simp] theorem setLevel_capValid0 (d : Byte) (v : VLevel) (s : State) : (s.setLevel d v).capValid0 = s.capValid0 := rfl
@[simp] theorem setLevel_capValid1 (d : Byte) (v : VLevel) (s : State) : (s.setLevel d v).capValid1 = s.capValid1 := rfl
@[simp] theorem setLevel_chipName (d : Byte) (v : VLevel) (s : State) : (s.setLevel d v).chipName = s.chipName := rfl
@[simp] theorem setLevel_chipVer (d : Byte) (v : VLevel) (s : State) : (s.setLevel d v).chipVer = s.chipVer := rfl
@[simp] theorem setLevel_laneSel (d : Byte) (v : VLevel) (s : State) : (s.setLevel d v).laneSel = s.laneSel := rfl
@[simp] theorem setLevel_domSet (d : Byte) (v : VLevel) (s : State) : (s.setLevel d v).domSet = s.domSet := rfl
@[simp] theorem setLevel_mem (d : Byte) (v : VLevel) (s : State) : (s.setLevel d v).mem = s.mem := rfl
@[simp] theorem setLevel_pmic (d : Byte) (v : VLevel) (s : State) : (s.setLevel d v).pmic = s.pmic := rfl
@[simp] theorem setLevel_pins (d : Byte) (v : VLevel) (s : State) : (s.setLevel d v).pins = s.pins := rfl
@[simp] theorem setLevel_laneMode (d : Byte) (v : VLevel) (s : State) : (s.setLevel d v).laneMode = s.laneMode := rfl
@[simp] theorem setLevel_log (d : Byte) (v : VLevel) (s : State) : (s.setLevel d v).log = s.log := rfl
@[simp] theorem setLevel_planRom (d : Byte) (v : VLevel) (s : State) : (s.setLevel d v).planRom = s.planRom := rfl
@[simp] theorem setLevel_planLen (d : Byte) (v : VLevel) (s : State) : (s.setLevel d v).planLen = s.planLen := rfl
@[simp] theorem setLevel_cfg (d : Byte) (v : VLevel) (s : State) : (s.setLevel d v).cfg = s.cfg := rfl
@[simp] theorem setLevel_answers (d : Byte) (v : VLevel) (s : State) : (s.setLevel d v).answers = s.answers := rfl
@[simp] theorem setLevel_backend (d : Byte) (v : VLevel) (s : State) : (s.setLevel d v).backend = s.backend := rfl
@[simp] theorem setLevel_calls (d : Byte) (v : VLevel) (s : State) : (s.setLevel d v).calls = s.calls := rfl
@[simp] theorem setLevel_host (d : Byte) (v : VLevel) (s : State) : (s.setLevel d v).host = s.host := rfl
@[simp] theorem setLevel_launched (d : Byte) (v : VLevel) (s : State) : (s.setLevel d v).launched = s.launched := rfl

/-! ## `pmicWritten` -/

@[simp] theorem pmicWritten_st (d : BitVec 7) (r v : Byte) (s : State) : (s.pmicWritten d r v).st = s.st := rfl
@[simp] theorem pmicWritten_pc (d : BitVec 7) (r v : Byte) (s : State) : (s.pmicWritten d r v).pc = s.pc := rfl
@[simp] theorem pmicWritten_cause (d : BitVec 7) (r v : Byte) (s : State) : (s.pmicWritten d r v).cause = s.cause := rfl
@[simp] theorem pmicWritten_cap0 (d : BitVec 7) (r v : Byte) (s : State) : (s.pmicWritten d r v).cap0 = s.cap0 := rfl
@[simp] theorem pmicWritten_cap1 (d : BitVec 7) (r v : Byte) (s : State) : (s.pmicWritten d r v).cap1 = s.cap1 := rfl
@[simp] theorem pmicWritten_capValid0 (d : BitVec 7) (r v : Byte) (s : State) : (s.pmicWritten d r v).capValid0 = s.capValid0 := rfl
@[simp] theorem pmicWritten_capValid1 (d : BitVec 7) (r v : Byte) (s : State) : (s.pmicWritten d r v).capValid1 = s.capValid1 := rfl
@[simp] theorem pmicWritten_chipName (d : BitVec 7) (r v : Byte) (s : State) : (s.pmicWritten d r v).chipName = s.chipName := rfl
@[simp] theorem pmicWritten_chipVer (d : BitVec 7) (r v : Byte) (s : State) : (s.pmicWritten d r v).chipVer = s.chipVer := rfl
@[simp] theorem pmicWritten_laneSel (d : BitVec 7) (r v : Byte) (s : State) : (s.pmicWritten d r v).laneSel = s.laneSel := rfl
@[simp] theorem pmicWritten_domSet (d : BitVec 7) (r v : Byte) (s : State) : (s.pmicWritten d r v).domSet = s.domSet := rfl
@[simp] theorem pmicWritten_mem (d : BitVec 7) (r v : Byte) (s : State) : (s.pmicWritten d r v).mem = s.mem := rfl
@[simp] theorem pmicWritten_pins (d : BitVec 7) (r v : Byte) (s : State) : (s.pmicWritten d r v).pins = s.pins := rfl
@[simp] theorem pmicWritten_laneMode (d : BitVec 7) (r v : Byte) (s : State) : (s.pmicWritten d r v).laneMode = s.laneMode := rfl
@[simp] theorem pmicWritten_domLevel (d : BitVec 7) (r v : Byte) (s : State) : (s.pmicWritten d r v).domLevel = s.domLevel := rfl
@[simp] theorem pmicWritten_log (d : BitVec 7) (r v : Byte) (s : State) : (s.pmicWritten d r v).log = s.log := rfl
@[simp] theorem pmicWritten_planRom (d : BitVec 7) (r v : Byte) (s : State) : (s.pmicWritten d r v).planRom = s.planRom := rfl
@[simp] theorem pmicWritten_planLen (d : BitVec 7) (r v : Byte) (s : State) : (s.pmicWritten d r v).planLen = s.planLen := rfl
@[simp] theorem pmicWritten_cfg (d : BitVec 7) (r v : Byte) (s : State) : (s.pmicWritten d r v).cfg = s.cfg := rfl
@[simp] theorem pmicWritten_answers (d : BitVec 7) (r v : Byte) (s : State) : (s.pmicWritten d r v).answers = s.answers := rfl
@[simp] theorem pmicWritten_backend (d : BitVec 7) (r v : Byte) (s : State) : (s.pmicWritten d r v).backend = s.backend := rfl
@[simp] theorem pmicWritten_calls (d : BitVec 7) (r v : Byte) (s : State) : (s.pmicWritten d r v).calls = s.calls := rfl
@[simp] theorem pmicWritten_host (d : BitVec 7) (r v : Byte) (s : State) : (s.pmicWritten d r v).host = s.host := rfl
@[simp] theorem pmicWritten_launched (d : BitVec 7) (r v : Byte) (s : State) : (s.pmicWritten d r v).launched = s.launched := rfl

/-! ## `pmicDrawn` -/

@[simp] theorem pmicDrawn_st (d : BitVec 7) (r v : Byte) (s : State) : (s.pmicDrawn d r v).st = s.st := rfl
@[simp] theorem pmicDrawn_pc (d : BitVec 7) (r v : Byte) (s : State) : (s.pmicDrawn d r v).pc = s.pc := rfl
@[simp] theorem pmicDrawn_cause (d : BitVec 7) (r v : Byte) (s : State) : (s.pmicDrawn d r v).cause = s.cause := rfl
@[simp] theorem pmicDrawn_cap0 (d : BitVec 7) (r v : Byte) (s : State) : (s.pmicDrawn d r v).cap0 = s.cap0 := rfl
@[simp] theorem pmicDrawn_cap1 (d : BitVec 7) (r v : Byte) (s : State) : (s.pmicDrawn d r v).cap1 = s.cap1 := rfl
@[simp] theorem pmicDrawn_capValid0 (d : BitVec 7) (r v : Byte) (s : State) : (s.pmicDrawn d r v).capValid0 = s.capValid0 := rfl
@[simp] theorem pmicDrawn_capValid1 (d : BitVec 7) (r v : Byte) (s : State) : (s.pmicDrawn d r v).capValid1 = s.capValid1 := rfl
@[simp] theorem pmicDrawn_chipName (d : BitVec 7) (r v : Byte) (s : State) : (s.pmicDrawn d r v).chipName = s.chipName := rfl
@[simp] theorem pmicDrawn_chipVer (d : BitVec 7) (r v : Byte) (s : State) : (s.pmicDrawn d r v).chipVer = s.chipVer := rfl
@[simp] theorem pmicDrawn_laneSel (d : BitVec 7) (r v : Byte) (s : State) : (s.pmicDrawn d r v).laneSel = s.laneSel := rfl
@[simp] theorem pmicDrawn_domSet (d : BitVec 7) (r v : Byte) (s : State) : (s.pmicDrawn d r v).domSet = s.domSet := rfl
@[simp] theorem pmicDrawn_mem (d : BitVec 7) (r v : Byte) (s : State) : (s.pmicDrawn d r v).mem = s.mem := rfl
@[simp] theorem pmicDrawn_pins (d : BitVec 7) (r v : Byte) (s : State) : (s.pmicDrawn d r v).pins = s.pins := rfl
@[simp] theorem pmicDrawn_laneMode (d : BitVec 7) (r v : Byte) (s : State) : (s.pmicDrawn d r v).laneMode = s.laneMode := rfl
@[simp] theorem pmicDrawn_domLevel (d : BitVec 7) (r v : Byte) (s : State) : (s.pmicDrawn d r v).domLevel = s.domLevel := rfl
@[simp] theorem pmicDrawn_log (d : BitVec 7) (r v : Byte) (s : State) : (s.pmicDrawn d r v).log = s.log := rfl
@[simp] theorem pmicDrawn_planRom (d : BitVec 7) (r v : Byte) (s : State) : (s.pmicDrawn d r v).planRom = s.planRom := rfl
@[simp] theorem pmicDrawn_planLen (d : BitVec 7) (r v : Byte) (s : State) : (s.pmicDrawn d r v).planLen = s.planLen := rfl
@[simp] theorem pmicDrawn_cfg (d : BitVec 7) (r v : Byte) (s : State) : (s.pmicDrawn d r v).cfg = s.cfg := rfl
@[simp] theorem pmicDrawn_answers (d : BitVec 7) (r v : Byte) (s : State) : (s.pmicDrawn d r v).answers = s.answers := rfl
@[simp] theorem pmicDrawn_backend (d : BitVec 7) (r v : Byte) (s : State) : (s.pmicDrawn d r v).backend = s.backend := rfl
@[simp] theorem pmicDrawn_calls (d : BitVec 7) (r v : Byte) (s : State) : (s.pmicDrawn d r v).calls = s.calls := rfl
@[simp] theorem pmicDrawn_host (d : BitVec 7) (r v : Byte) (s : State) : (s.pmicDrawn d r v).host = s.host := rfl
@[simp] theorem pmicDrawn_launched (d : BitVec 7) (r v : Byte) (s : State) : (s.pmicDrawn d r v).launched = s.launched := rfl

/-! ## `blockReset` -/

@[simp] theorem blockReset_st (s : State) : s.blockReset.st = .idle := rfl
@[simp] theorem blockReset_pc (s : State) : s.blockReset.pc = 0 := rfl
@[simp] theorem blockReset_cause (s : State) : s.blockReset.cause = 0 := rfl
@[simp] theorem blockReset_cap0 (s : State) : s.blockReset.cap0 = 0 := rfl
@[simp] theorem blockReset_cap1 (s : State) : s.blockReset.cap1 = 0 := rfl
@[simp] theorem blockReset_capValid0 (s : State) : s.blockReset.capValid0 = false := rfl
@[simp] theorem blockReset_capValid1 (s : State) : s.blockReset.capValid1 = false := rfl
@[simp] theorem blockReset_chipName (s : State) : s.blockReset.chipName = 0 := rfl
@[simp] theorem blockReset_chipVer (s : State) : s.blockReset.chipVer = 0 := rfl
@[simp] theorem blockReset_laneSel (s : State) : s.blockReset.laneSel = 0 := rfl
@[simp] theorem blockReset_domSet (s : State) : s.blockReset.domSet = 0 := rfl
@[simp] theorem blockReset_mem (s : State) : s.blockReset.mem = s.mem := rfl
@[simp] theorem blockReset_pmic (s : State) : s.blockReset.pmic = s.pmic := rfl
@[simp] theorem blockReset_pins (s : State) : s.blockReset.pins = s.pins := rfl
@[simp] theorem blockReset_laneMode (s : State) : s.blockReset.laneMode = s.laneMode := rfl
@[simp] theorem blockReset_domLevel (s : State) : s.blockReset.domLevel = s.domLevel := rfl
@[simp] theorem blockReset_log (s : State) : s.blockReset.log = [] := rfl
@[simp] theorem blockReset_planRom (s : State) : s.blockReset.planRom = s.planRom := rfl
@[simp] theorem blockReset_planLen (s : State) : s.blockReset.planLen = s.planLen := rfl
@[simp] theorem blockReset_cfg (s : State) : s.blockReset.cfg = s.cfg := rfl
@[simp] theorem blockReset_answers (s : State) : s.blockReset.answers = s.answers := rfl
@[simp] theorem blockReset_backend (s : State) : s.blockReset.backend = s.backend := rfl
@[simp] theorem blockReset_calls (s : State) : s.blockReset.calls = s.calls := rfl
@[simp] theorem blockReset_host (s : State) : s.blockReset.host = s.host := rfl
@[simp] theorem blockReset_launched (s : State) : s.blockReset.launched = (s.launched && s.st == .idle) := rfl

/-! ## `launch` -/

@[simp] theorem launch_st (x : ExternalDraw) (s : State) : (s.launch x).st = .idle := rfl
@[simp] theorem launch_pc (x : ExternalDraw) (s : State) : (s.launch x).pc = 0 := rfl
@[simp] theorem launch_cause (x : ExternalDraw) (s : State) : (s.launch x).cause = 0 := rfl
@[simp] theorem launch_cap0 (x : ExternalDraw) (s : State) : (s.launch x).cap0 = 0 := rfl
@[simp] theorem launch_cap1 (x : ExternalDraw) (s : State) : (s.launch x).cap1 = 0 := rfl
@[simp] theorem launch_capValid0 (x : ExternalDraw) (s : State) : (s.launch x).capValid0 = false := rfl
@[simp] theorem launch_capValid1 (x : ExternalDraw) (s : State) : (s.launch x).capValid1 = false := rfl
@[simp] theorem launch_chipName (x : ExternalDraw) (s : State) : (s.launch x).chipName = 0 := rfl
@[simp] theorem launch_chipVer (x : ExternalDraw) (s : State) : (s.launch x).chipVer = 0 := rfl
@[simp] theorem launch_laneSel (x : ExternalDraw) (s : State) : (s.launch x).laneSel = 0 := rfl
@[simp] theorem launch_domSet (x : ExternalDraw) (s : State) : (s.launch x).domSet = 0 := rfl
@[simp] theorem launch_log (x : ExternalDraw) (s : State) : (s.launch x).log = [] := rfl
@[simp] theorem launch_planRom (x : ExternalDraw) (s : State) : (s.launch x).planRom = s.planRom := rfl
@[simp] theorem launch_planLen (x : ExternalDraw) (s : State) : (s.launch x).planLen = s.planLen := rfl
@[simp] theorem launch_cfg (x : ExternalDraw) (s : State) : (s.launch x).cfg = s.cfg := rfl
@[simp] theorem launch_answers (x : ExternalDraw) (s : State) : (s.launch x).answers = s.answers := rfl
@[simp] theorem launch_backend (x : ExternalDraw) (s : State) : (s.launch x).backend = s.backend := rfl
@[simp] theorem launch_calls (x : ExternalDraw) (s : State) : (s.launch x).calls = s.calls := rfl
@[simp] theorem launch_host (x : ExternalDraw) (s : State) : (s.launch x).host = s.host := rfl
@[simp] theorem launch_launched (x : ExternalDraw) (s : State) : (s.launch x).launched = true := rfl

end Sys2Proof.Machine
end

