-- ==== Sys2Proof/Laws/Ops.lean ====
section
/-! SUPPORT. What each shared operation does, said once: the reading law of every table update, and the cases of every
operation the commands share. -/

namespace Sys2Proof.Machine

/-! ## Word and byte order -/

theorem wordOfBytes_byteOfWord (w : Word) :
    wordOfBytes (byteOfWord w 0) (byteOfWord w 1) (byteOfWord w 2) (byteOfWord w 3) = w := by
  unfold wordOfBytes byteOfWord
  ext i hi
  simp only [BitVec.getElem_append, BitVec.getElem_extractLsb']
  split
  · simp [BitVec.getLsbD_eq_getElem hi]
  · split
    · rw [← BitVec.getLsbD_eq_getElem hi]; congr 1; omega
    · split <;> (rw [← BitVec.getLsbD_eq_getElem hi]; congr 1; omega)

theorem half_of_bytes (v : Half) : v.extractLsb' 8 8 ++ v.extractLsb' 0 8 = v := by
  ext i hi
  simp only [BitVec.getElem_append, BitVec.getElem_extractLsb']
  split
  · simp [BitVec.getLsbD_eq_getElem hi]
  · rw [← BitVec.getLsbD_eq_getElem hi]; congr 1; omega

/-! ## MMIO cells -/

theorem sparseGet_setByte (m : Memory) (k j : Nat) (b : Byte) :
    sparseGet Config.unlistedByte (setByte m k b) j = if j = k then b else sparseGet Config.unlistedByte m j :=
  sparseGet_set _ m k j b

/-- A byte of memory after a 16-bit cell is written. -/
theorem sparseGet_setCell16 (m : Memory) (a j : Nat) (v : Half) :
    sparseGet Config.unlistedByte (setCell16 m a v) j
      = if j = a + 1 then v.extractLsb' 8 8 else if j = a then v.extractLsb' 0 8
        else sparseGet Config.unlistedByte m j := by
  simp only [setCell16, sparseGet_setByte]

/-- A byte of memory after a 32-bit cell is written. -/
theorem sparseGet_setCell32 (m : Memory) (a j : Nat) (w : Word) :
    sparseGet Config.unlistedByte (setCell32 m a w) j
      = if j = a + 3 then byteOfWord w 3 else if j = a + 2 then byteOfWord w 2
        else if j = a + 1 then byteOfWord w 1 else if j = a then byteOfWord w 0
        else sparseGet Config.unlistedByte m j := by
  simp only [setCell32, sparseGet_setByte]

/-- R55: a store to a Masked register leaves the merged cell. -/
theorem mreg_memWrite {s : State} {a : Word} (w : Word) (h : regKindOf s.cfg a = .masked) :
    (s.memWrite a w).mreg a = mergeMasked (s.mreg a) w := by
  simp only [State.memWrite, h, State.mreg, State.mmioByte, sparseGet_setCell16]
  simp [half_of_bytes]

/-- R56: a store to a Plain register leaves the word. -/
theorem preg_memWrite {s : State} {a : Word} (w : Word) (h : regKindOf s.cfg a = .plain) :
    (s.memWrite a w).preg a = w := by
  simp only [State.memWrite, h, State.preg, State.mmioByte, sparseGet_setCell32]
  simp [wordOfBytes_byteOfWord]

/-- R55 to R57: which bytes of the mirror a store may change. -/
theorem mmioByte_memWrite {s : State} {a : Word} (w : Word) {j : Nat}
    (h : match regKindOf s.cfg a with
      | .masked => j ≠ a.toNat ∧ j ≠ a.toNat + 1
      | .plain => j < a.toNat ∨ a.toNat + 4 ≤ j
      | .unmodelled => True) :
    (s.memWrite a w).mmioByte j = s.mmioByte j := by
  unfold State.memWrite State.mmioByte
  split at h
  · next e => simp only [e, sparseGet_setCell16]; rw [if_neg h.2, if_neg h.1]
  · next e =>
    simp only [e, sparseGet_setCell32]
    rw [if_neg (by omega), if_neg (by omega), if_neg (by omega), if_neg (by omega)]
  · next e => simp only [e]

/-- One bit of a masked merge. -/
theorem getLsbD_mergeMasked (c : Half) (w : Word) {i : Nat} (hi : i < 16) :
    (mergeMasked c w).getLsbD i = if w.getLsbD (16 + i) then w.getLsbD i else c.getLsbD i := by
  simp only [mergeMasked, BitVec.getLsbD_or, BitVec.getLsbD_and, BitVec.getLsbD_not, BitVec.getLsbD_extractLsb', hi,
    Nat.zero_add]
  cases w.getLsbD (16 + i) <;> simp

/-! ## The regulator's registers -/

theorem pmicReg_pmicWritten (s : State) (dev : BitVec 7) (reg data r : Byte) :
    (s.pmicWritten dev reg data).pmicReg r
      = if dev = s.cfg.pmicAddr ∧ isIdReg reg = false ∧ r = reg then data else s.pmicReg r := by
  unfold State.pmicWritten State.pmicReg
  dsimp only
  split
  · next h => rw [sparseGet_set]; simp [h.1, h.2, BitVec.toNat_inj]
  · next h => rw [if_neg]; intro h'; exact h ⟨h'.1, h'.2.1⟩

theorem pmicReg_pmicDrawn (s : State) (dev : BitVec 7) (reg left r : Byte) :
    (s.pmicDrawn dev reg left).pmicReg r = if dev = s.cfg.pmicAddr ∧ r = reg then left else s.pmicReg r := by
  unfold State.pmicDrawn State.pmicReg
  dsimp only
  split
  · next h => rw [sparseGet_set]; simp [h, BitVec.toNat_inj]
  · next h => rw [if_neg]; intro h'; exact h h'.1

/-! ## Pins, lanes, domains -/

theorem pinKey_inj {b p b' p' : Byte} : pinKey b p = pinKey b' p' ↔ b = b' ∧ p = p' := by
  constructor
  · intro h
    have hp := p.isLt
    have hp' := p'.isLt
    unfold pinKey at h
    exact ⟨BitVec.eq_of_toNat_eq (by omega), BitVec.eq_of_toNat_eq (by omega)⟩
  · rintro ⟨rfl, rfl⟩; rfl

theorem pin_setPin (s : State) (b p b' p' : Byte) (v : Pin) :
    (s.setPin b p v).pin b' p' = if b' = b ∧ p' = p then v else s.pin b' p' := by
  unfold State.setPin State.pin
  rw [sparseGet_set]
  simp only [pinKey_inj]

/-- One descriptor's effect on the table of pins (R114): the pin it names, and no other. -/
theorem sparseGet_applyDesc (d : Word) (pins : List (Nat × Pin)) (b p : Byte) :
    sparseGet Config.unlistedPin (applyDesc d pins) (pinKey b p)
      = if b = descBank d ∧ p = descPin d then descApplied d (sparseGet Config.unlistedPin pins (pinKey b p))
        else sparseGet Config.unlistedPin pins (pinKey b p) := by
  unfold applyDesc
  rw [sparseGet_set]
  simp only [pinKey_inj]
  split
  · next h => rw [h.1, h.2]
  · rfl

theorem modeOf_setMode (s : State) (l l' : Byte) (m : LaneMode) :
    (s.setMode l m).modeOf l' = if l' = l then m else s.modeOf l' := by
  unfold State.setMode State.modeOf
  rw [sparseGet_set]
  simp only [BitVec.toNat_inj]

theorem levelOf_setLevel (s : State) (d d' : Byte) (v : VLevel) :
    (s.setLevel d v).levelOf d' = if d' = d then v else s.levelOf d' := by
  unfold State.setLevel State.levelOf
  rw [sparseGet_set]
  simp only [BitVec.toNat_inj]

/-- Membership in a one-shot set after an id is added. -/
theorem getLsbD_insertId (ids : BitVec 256) (id j : Byte) :
    (insertId ids id).getLsbD j.toNat = (ids.getLsbD j.toNat || j == id) := by
  have h := j.isLt
  unfold insertId
  simp only [BitVec.getLsbD_or, BitVec.getLsbD_twoPow]
  congr 1
  rw [Bool.eq_iff_iff]
  simp only [decide_eq_true_eq, Bool.and_eq_true, beq_iff_eq, ← BitVec.toNat_inj]
  omega

theorem laneTaken_addLane (s : State) (l l' : Byte) :
    (s.addLane l).laneTaken l' = (s.laneTaken l' || l' == l) :=
  getLsbD_insertId s.laneSel l l'

theorem domTaken_addDom (s : State) (d d' : Byte) :
    (s.addDom d).domTaken d' = (s.domTaken d' || d' == d) :=
  getLsbD_insertId s.domSet d d'

/-! ## Captures -/

theorem bit_cases (i : BitVec 1) : i = 0 ∨ i = 1 := by
  revert i; decide

theorem cap_setCapture (s : State) (i j : BitVec 1) (b : Byte) :
    (s.setCapture i b).cap j = if j = i then b else s.cap j := by
  rcases bit_cases i with rfl | rfl <;> rcases bit_cases j with rfl | rfl <;> simp [State.setCapture, State.cap]

theorem capValid_setCapture (s : State) (i j : BitVec 1) (b : Byte) :
    (s.setCapture i b).capValid j = if j = i then true else s.capValid j := by
  rcases bit_cases i with rfl | rfl <;> rcases bit_cases j with rfl | rfl <;> simp [State.setCapture, State.capValid]

/-! ## The cases of the shared bodies -/

theorem storeWord_cases (a w : Word) (s : State) :
    (aligned a = true ∧ s.storeWord a w = ((s.memWrite a w).emit (.mmioWr a w)).advance)
    ∨ (aligned a = false ∧ s.storeWord a w = s.raise .misaligned) := by
  unfold State.storeWord
  cases aligned a <;> simp

theorem gpio_cases (b p : Byte) (e : Event) (f : Pin → Pin) (s : State) :
    (pinInRange s.cfg b p = true ∧ s.gpio b p e f = ((s.emit e).setPin b p (f (s.pin b p))).advance)
    ∨ (pinInRange s.cfg b p = false ∧ s.gpio b p e f = s.raise .illegalCommand) := by
  unfold State.gpio
  cases pinInRange s.cfg b p <;> simp

theorem wordStored_eq (w : StoredWord) : wordStored w = w.b3 ++ w.b2 ++ w.b1 ++ w.b0 := rfl

@[simp] theorem wordStored_storedOf (w : Word) : wordStored (storedOf w) = w := wordOfBytes_byteOfWord w

theorem groupOf_eq_some {cfg : Params} {g : Byte} {ds : List Word} :
    groupOf cfg g = some ds ↔ ∃ stored, cfg.pinGroups[g.toNat]? = some stored ∧ stored.map wordStored = ds := by
  simp [groupOf]

theorem groupOf_eq_none {cfg : Params} {g : Byte} : groupOf cfg g = none ↔ cfg.pinGroups.length ≤ g.toNat := by
  simp [groupOf]

theorem pinGroup_cases (g : Byte) (s : State) :
    (∃ ds, s.group g = some ds ∧ groupWf s.cfg ds = true
      ∧ s.pinGroup g = ((s.emit (.pinGroup g ds)).applyDescs ds).advance)
    ∨ ((s.group g = none ∨ ∃ ds, s.group g = some ds ∧ groupWf s.cfg ds = false)
      ∧ s.pinGroup g = s.raise .illegalCommand) := by
  unfold State.pinGroup
  cases h : s.group g with
  | none => exact .inr ⟨.inl rfl, rfl⟩
  | some ds =>
    cases hw : groupWf s.cfg ds with
    | true => exact .inl ⟨ds, rfl, hw, by simp [hw]⟩
    | false => exact .inr ⟨.inr ⟨ds, rfl, hw⟩, by simp [hw]⟩

theorem busReadInto_cases (dev : BitVec 7) (reg : Byte) (i : BitVec 1) (s : State) :
    (∃ b, s.answerTo (.busRead s.cfg.bus dev reg) = .ok b
      ∧ s.busReadInto dev reg i = ((s.asked.emit (.busRd dev reg (.ok b))).setCapture i b).advance)
    ∨ (∃ l, s.answerTo (.busRead s.cfg.bus dev reg) = .err l
      ∧ s.busReadInto dev reg i = (s.asked.emit (.busRd dev reg .err)).raise .busError) := by
  unfold State.busReadInto
  cases h : s.answerTo (.busRead s.cfg.bus dev reg) with
  | ok b => exact .inl ⟨b, rfl, rfl⟩
  | err l => exact .inr ⟨l, rfl, rfl⟩

theorem busWriteTo_cases (dev : BitVec 7) (reg data : Byte) (s : State) :
    (∃ b, s.answerTo (.busWrite s.cfg.bus dev reg data) = .ok b
      ∧ s.busWriteTo dev reg data = ((s.asked.emit (.busWr dev reg data .ok)).pmicWritten dev reg data).advance)
    ∨ (∃ l, s.answerTo (.busWrite s.cfg.bus dev reg data) = .err l
      ∧ s.busWriteTo dev reg data
        = ((s.asked.emit (.busWr dev reg data .err)).pmicDrawn dev reg l).raise .busError) := by
  unfold State.busWriteTo
  cases h : s.answerTo (.busWrite s.cfg.bus dev reg data) with
  | ok b => exact .inl ⟨b, rfl, rfl⟩
  | err l => exact .inr ⟨l, rfl, rfl⟩

theorem identityCheck_cases (n : BitVec 12) (s : State) :
    ((s.capValid 0 = false ∨ s.capValid 1 = false) ∧ s.identityCheck n = s.raise .unwrittenCapture)
    ∨ (s.capValid 0 = true ∧ s.capValid 1 = true ∧ decodeName (s.cap 0) (s.cap 1) = n
      ∧ s.identityCheck n = s.setIdentity.advance)
    ∨ (s.capValid 0 = true ∧ s.capValid 1 = true ∧ decodeName (s.cap 0) (s.cap 1) ≠ n
      ∧ s.identityCheck n = s.setIdentity.raise .idMismatch) := by
  unfold State.identityCheck
  cases s.capValid 0 with
  | false => exact .inl ⟨.inl rfl, rfl⟩
  | true =>
    cases s.capValid 1 with
    | false => exact .inl ⟨.inr rfl, rfl⟩
    | true =>
      by_cases h : decodeName (s.cap 0) (s.cap 1) = n
      · exact .inr (.inl ⟨rfl, rfl, h, if_pos h⟩)
      · exact .inr (.inr ⟨rfl, rfl, h, if_neg h⟩)

theorem laneSelect_cases (l : Byte) (m : LaneMode) (s : State) :
    ((m = 3 ∨ s.cfg.numLanes ≤ l.toNat) ∧ s.laneSelect l m = s.raise .illegalCommand)
    ∨ (m ≠ 3 ∧ l.toNat < s.cfg.numLanes ∧ s.laneTaken l = true ∧ s.laneSelect l m = s.raise .laneReselect)
    ∨ (m ≠ 3 ∧ l.toNat < s.cfg.numLanes ∧ s.laneTaken l = false ∧ ∃ b, s.answerTo (.laneSelect l m) = .ok b
      ∧ s.laneSelect l m = (((s.asked.emit (.laneSel l m .ok)).setMode l m).addLane l).advance)
    ∨ (m ≠ 3 ∧ l.toNat < s.cfg.numLanes ∧ s.laneTaken l = false ∧ ∃ b, s.answerTo (.laneSelect l m) = .err b
      ∧ s.laneSelect l m = ((s.asked.emit (.laneSel l m .err)).setMode l (drawnMode b)).raise .laneError) := by
  unfold State.laneSelect State.laneCall
  by_cases h : m = 3 ∨ s.cfg.numLanes ≤ l.toNat
  · exact .inl ⟨h, by rw [if_pos h]⟩
  · rw [if_neg h]
    simp only [not_or, not_le] at h
    refine .inr ?_
    cases s.laneTaken l with
    | true => exact .inl ⟨h.1, h.2, rfl, by simp⟩
    | false =>
      cases ha : s.answerTo (.laneSelect l m) with
      | ok b => exact .inr (.inl ⟨h.1, h.2, rfl, b, rfl, by simp⟩)
      | err b => exact .inr (.inr ⟨h.1, h.2, rfl, b, rfl, by simp⟩)

theorem domainSet_cases (d : Byte) (v : VLevel) (s : State) :
    (s.domTaken d = true ∧ s.domainSet d v = s.raise .domainReset)
    ∨ (s.domTaken d = false ∧ ∃ b, s.answerTo (.domainSet d v) = .ok b
      ∧ s.domainSet d v = (((s.asked.emit (.domSet d v .ok)).setLevel d v).addDom d).advance)
    ∨ (s.domTaken d = false ∧ ∃ b, s.answerTo (.domainSet d v) = .err b
      ∧ s.domainSet d v = ((s.asked.emit (.domSet d v .err)).setLevel d (drawnLevel b)).raise .domainError) := by
  unfold State.domainSet State.domCall
  cases s.domTaken d with
  | true => exact .inl ⟨rfl, by simp⟩
  | false =>
    cases ha : s.answerTo (.domainSet d v) with
    | ok b => exact .inr (.inl ⟨rfl, b, rfl, by simp⟩)
    | err b => exact .inr (.inr ⟨rfl, b, rfl, by simp⟩)

end Sys2Proof.Machine
end

