-- ==== Sys2Proof/Laws/Step.lean ====
section
/-! SUPPORT. What a command and a step can do, said once: the state a command answers, and the cases of a step that answers a
next state. -/

namespace Sys2Proof.Machine

/-! ## The commands' answers -/

theorem exec_mwr (addr : Word) (mask value : Half) (s : State) :
    exec (.mwr addr mask value) s = .next (s.storeWord addr (compose mask value)) := rfl

theorem exec_wr32 (addr data : Word) (s : State) : exec (.wr32 addr data) s = .next (s.storeWord addr data) := rfl

theorem exec_domset (dom : Byte) (lvl : VLevel) (s : State) :
    exec (.domset dom lvl) s = .next (s.domainSet dom lvl) := rfl

theorem exec_busrd (dev : BitVec 7) (reg : Byte) (idx : BitVec 1) (s : State) :
    exec (.busrd dev reg idx) s = .next (s.busReadInto dev reg idx) := rfl

theorem exec_buswr (dev : BitVec 7) (reg data : Byte) (s : State) :
    exec (.buswr dev reg data) s = .next (s.busWriteTo dev reg data) := rfl

theorem exec_idchk (expected : BitVec 12) (s : State) :
    exec (.idchk expected) s = .next (s.identityCheck expected) := rfl

theorem exec_lanesel (lane : Byte) (mode : LaneMode) (s : State) :
    exec (.lanesel lane mode) s = .next (s.laneSelect lane mode) := rfl

theorem exec_pingrp (g : Byte) (s : State) : exec (.pingrp g) s = .next (s.pinGroup g) := rfl

theorem exec_gpiodir (bank pin : Byte) (dir : PinDir) (s : State) :
    exec (.gpiodir bank pin dir) s
      = .next (s.gpio bank pin (.gpioDir bank pin dir) (fun p => { p with dir := dir })) := rfl

theorem exec_gpiowr (bank pin : Byte) (level : PinLevel) (s : State) :
    exec (.gpiowr bank pin level) s
      = .next (s.gpio bank pin (.gpioWr bank pin level) (fun p => { p with level := level })) := rfl

theorem exec_endPlan (s : State) : exec .endPlan s = .next { s with st := .doneOk } := rfl

/-! ## The step -/

/-- The coordinator's own step that answers a next state: it was in Run, and it faulted at the fetch or the decode, or it ran
the decoded command. -/
theorem coordMove_cases {s t : State}
    (h : (match s.coordMove with | .settled o => o | .execute i u => exec i u) = .next t) :
    s.st = .run ∧
      ((¬ s.pc < s.planLen ∧ t = s.raise .planOverrun)
      ∨ (s.pc < s.planLen ∧ (∃ r, decode s.fetch = .error r) ∧ t = s.raise .illegalCommand)
      ∨ (s.pc < s.planLen ∧ ∃ i, decode s.fetch = .ok i ∧ exec i s = .next t)) := by
  cases hs : s.st with
  | idle => simp [State.coordMove, hs] at h
  | doneOk => simp [State.coordMove, hs] at h
  | doneFail => simp [State.coordMove, hs] at h
  | run =>
    refine ⟨rfl, ?_⟩
    simp only [State.coordMove, hs, State.fetchMove] at h
    by_cases hp : s.pc < s.planLen
    · cases hd : decode s.fetch with
      | error r =>
        simp only [hp, if_true, hd, Host.Outcome.next.injEq] at h
        exact .inr (.inl ⟨hp, ⟨r, rfl⟩, h.symm⟩)
      | ok i =>
        simp only [hp, if_true, hd] at h
        exact .inr (.inr ⟨hp, i, rfl, h⟩)
    · simp only [hp, if_false, Host.Outcome.next.injEq] at h
      exact .inl ⟨hp, h.symm⟩

/-- A step that answers a next state is a block reset, a launch, a start, or the coordinator's own step from the state `u`, which is `s`
with the host's input used up. -/
theorem step_cases {s t : State} (h : step s = .next t) :
    ∃ rest, rest = s.host.tail ∧
      ((s.host.head? = some .reset ∧ t = State.blockReset { s with host := rest })
      ∨ (∃ x, s.host.head? = some (.launch x) ∧ t = State.launch x { s with host := rest })
      ∨ ((∃ ctx, s.host.head? = some (.start ctx)) ∧ s.st = .idle ∧ s.launched = true ∧ t = { s with host := rest, st := .run })
      ∨ ((s.host = [] ∨ s.host.head? = some .proceed) ∧ s.st = .run ∧ ∃ u, u = { s with host := rest } ∧
        ((¬ u.pc < u.planLen ∧ t = u.raise .planOverrun)
        ∨ (u.pc < u.planLen ∧ (∃ r, decode u.fetch = .error r) ∧ t = u.raise .illegalCommand)
        ∨ (u.pc < u.planLen ∧ ∃ i, decode u.fetch = .ok i ∧ exec i u = .next t)))) := by
  refine ⟨_, rfl, ?_⟩
  unfold step State.nextMove at h
  cases hh : s.host with
  | nil =>
    simp only [hh] at h
    have hc := coordMove_cases h
    refine .inr (.inr (.inr ⟨.inl rfl, hc.1, s, ?_, hc.2⟩))
    cases s; cases hh; rfl
  | cons x rest =>
    cases x with
    | proceed =>
      simp only [hh] at h
      have hc := coordMove_cases h
      exact .inr (.inr (.inr ⟨.inr rfl, hc.1, _, rfl, hc.2⟩))
    | reset =>
      simp only [hh, Host.Outcome.next.injEq] at h
      exact .inl ⟨rfl, h.symm⟩
    | launch x =>
      simp only [hh, Host.Outcome.next.injEq] at h
      exact .inr (.inl ⟨x, rfl, h.symm⟩)
    | start ctx =>
      simp only [hh, State.start] at h
      cases hs : s.st with
      | idle =>
        cases hl : s.launched with
        | false => simp [hs, hl] at h
        | true =>
          simp only [hs, hl, if_true, Host.Outcome.next.injEq] at h
          exact .inr (.inr (.inl ⟨⟨ctx, rfl⟩, rfl, rfl, h.symm⟩))
      | run => simp [hs] at h
      | doneOk => simp [hs] at h
      | doneFail => simp [hs] at h
    | writeStatus v => simp [hh] at h

/-- A run whose first step answers a next state goes on from it. -/
theorem run_of_step (k : Nat) {s t : State} (h : step s = .next t) :
    Host.Core.run core (k + 1) s = Host.Core.run core k t := by
  have h' : core.step s = .next t := h
  simp only [Host.Core.run, h']

end Sys2Proof.Machine
end

