-- ==== Sys2Proof/Laws/Effect.lean ====
section
/-! SUPPORT. Everything a command can do, said once as a relation: one case per way a command completes or faults, with the
facts that hold in it. -/

namespace Sys2Proof.Machine

/-- `Effect s i t`: command `i` takes state `s` to `t`. -/
inductive Effect (s : State) : Instr → State → Prop
  /-- A fault of the checks a command makes before it acts (60_exceptions.md R179, checks 1 to 5). -/
  | check (i : Instr) (c : Cause) (hc : c.code.toNat ∈ [5, 6, 8, 9, 10]) : Effect s i (s.raise c)
  | mwr (a : Word) (m v : Half) (ha : aligned a = true) :
    Effect s (.mwr a m v) ((s.memWrite a (compose m v)).emit (.mmioWr a (compose m v))).advance
  | wr32 (a d : Word) (ha : aligned a = true) : Effect s (.wr32 a d) ((s.memWrite a d).emit (.mmioWr a d)).advance
  | domsetOk (d : Byte) (v : VLevel) (hd : s.domTaken d = false) (b : Byte)
    (h : s.answerTo (.domainSet d v) = .ok b) :
    Effect s (.domset d v) (((s.asked.emit (.domSet d v .ok)).setLevel d v).addDom d).advance
  | domsetErr (d : Byte) (v : VLevel) (hd : s.domTaken d = false) (b : Byte)
    (h : s.answerTo (.domainSet d v) = .err b) :
    Effect s (.domset d v) (((s.asked.emit (.domSet d v .err)).setLevel d (drawnLevel b)).raise .domainError)
  | busrdOk (dev : BitVec 7) (r : Byte) (i : BitVec 1) (b : Byte)
    (h : s.answerTo (.busRead s.cfg.bus dev r) = .ok b) :
    Effect s (.busrd dev r i) ((s.asked.emit (.busRd dev r (.ok b))).setCapture i b).advance
  | busrdErr (dev : BitVec 7) (r : Byte) (i : BitVec 1) (b : Byte)
    (h : s.answerTo (.busRead s.cfg.bus dev r) = .err b) :
    Effect s (.busrd dev r i) ((s.asked.emit (.busRd dev r .err)).raise .busError)
  | buswrOk (dev : BitVec 7) (r d b : Byte) (h : s.answerTo (.busWrite s.cfg.bus dev r d) = .ok b) :
    Effect s (.buswr dev r d) ((s.asked.emit (.busWr dev r d .ok)).pmicWritten dev r d).advance
  | buswrErr (dev : BitVec 7) (r d b : Byte) (h : s.answerTo (.busWrite s.cfg.bus dev r d) = .err b) :
    Effect s (.buswr dev r d) (((s.asked.emit (.busWr dev r d .err)).pmicDrawn dev r b).raise .busError)
  | idchkMatch (n : BitVec 12) (h0 : s.capValid 0 = true) (h1 : s.capValid 1 = true)
    (hn : decodeName (s.cap 0) (s.cap 1) = n) : Effect s (.idchk n) s.setIdentity.advance
  | idchkMismatch (n : BitVec 12) (h0 : s.capValid 0 = true) (h1 : s.capValid 1 = true)
    (hn : decodeName (s.cap 0) (s.cap 1) ≠ n) : Effect s (.idchk n) (s.setIdentity.raise .idMismatch)
  | laneselOk (l : Byte) (m : LaneMode) (hm : m ≠ 3) (hr : l.toNat < s.cfg.numLanes) (hl : s.laneTaken l = false)
    (b : Byte) (h : s.answerTo (.laneSelect l m) = .ok b) :
    Effect s (.lanesel l m) (((s.asked.emit (.laneSel l m .ok)).setMode l m).addLane l).advance
  | laneselErr (l : Byte) (m : LaneMode) (hm : m ≠ 3) (hr : l.toNat < s.cfg.numLanes) (hl : s.laneTaken l = false)
    (b : Byte) (h : s.answerTo (.laneSelect l m) = .err b) :
    Effect s (.lanesel l m) (((s.asked.emit (.laneSel l m .err)).setMode l (drawnMode b)).raise .laneError)
  | pingrp (g : Byte) (ds : List Word) (hg : s.group g = some ds) (hw : groupWf s.cfg ds = true) :
    Effect s (.pingrp g) ((s.emit (.pinGroup g ds)).applyDescs ds).advance
  | gpiodir (b p : Byte) (v : PinDir) (hr : pinInRange s.cfg b p = true) :
    Effect s (.gpiodir b p v) ((s.emit (.gpioDir b p v)).setPin b p { s.pin b p with dir := v }).advance
  | gpiowr (b p : Byte) (v : PinLevel) (hr : pinInRange s.cfg b p = true) :
    Effect s (.gpiowr b p v) ((s.emit (.gpioWr b p v)).setPin b p { s.pin b p with level := v }).advance
  | endPlan : Effect s .endPlan { s with st := .doneOk }

theorem Effect.of_exec {i : Instr} {s t : State} (h : exec i s = .next t) : Effect s i t := by
  cases i with
  | mwr a m v =>
    cases h
    rcases storeWord_cases a (compose m v) s with ⟨ha, e⟩ | ⟨_, e⟩ <;> rw [e]
    · exact .mwr a m v ha
    · exact .check _ .misaligned (by decide)
  | wr32 a d =>
    cases h
    rcases storeWord_cases a d s with ⟨ha, e⟩ | ⟨_, e⟩ <;> rw [e]
    · exact .wr32 a d ha
    · exact .check _ .misaligned (by decide)
  | domset d v =>
    cases h
    rcases domainSet_cases d v s with ⟨_, e⟩ | ⟨hd, b, hb, e⟩ | ⟨hd, b, hb, e⟩ <;> rw [e]
    · exact .check _ .domainReset (by decide)
    · exact .domsetOk d v hd b hb
    · exact .domsetErr d v hd b hb
  | busrd dev r i =>
    cases h
    rcases busReadInto_cases dev r i s with ⟨b, hb, e⟩ | ⟨b, hb, e⟩ <;> rw [e]
    · exact .busrdOk dev r i b hb
    · exact .busrdErr dev r i b hb
  | buswr dev r d =>
    cases h
    rcases busWriteTo_cases dev r d s with ⟨b, hb, e⟩ | ⟨b, hb, e⟩ <;> rw [e]
    · exact .buswrOk dev r d b hb
    · exact .buswrErr dev r d b hb
  | idchk n =>
    cases h
    rcases identityCheck_cases n s with ⟨_, e⟩ | ⟨h0, h1, hn, e⟩ | ⟨h0, h1, hn, e⟩ <;> rw [e]
    · exact .check _ .unwrittenCapture (by decide)
    · exact .idchkMatch n h0 h1 hn
    · exact .idchkMismatch n h0 h1 hn
  | lanesel l m =>
    cases h
    rcases laneSelect_cases l m s with ⟨_, e⟩ | ⟨_, _, _, e⟩ | ⟨hm, hr, hl, b, hb, e⟩ | ⟨hm, hr, hl, b, hb, e⟩ <;> rw [e]
    · exact .check _ .illegalCommand (by decide)
    · exact .check _ .laneReselect (by decide)
    · exact .laneselOk l m hm hr hl b hb
    · exact .laneselErr l m hm hr hl b hb
  | pingrp g =>
    cases h
    rcases pinGroup_cases g s with ⟨ds, hg, hw, e⟩ | ⟨_, e⟩ <;> rw [e]
    · exact .pingrp g ds hg hw
    · exact .check _ .illegalCommand (by decide)
  | gpiodir b p v =>
    cases h
    rcases gpio_cases b p (.gpioDir b p v) (fun q => { q with dir := v }) s with ⟨hr, e⟩ | ⟨_, e⟩ <;> rw [e]
    · exact .gpiodir b p v hr
    · exact .check _ .illegalCommand (by decide)
  | gpiowr b p v =>
    cases h
    rcases gpio_cases b p (.gpioWr b p v) (fun q => { q with level := v }) s with ⟨hr, e⟩ | ⟨_, e⟩ <;> rw [e]
    · exact .gpiowr b p v hr
    · exact .check _ .illegalCommand (by decide)
  | endPlan => cases h; exact .endPlan

end Sys2Proof.Machine
end

