-- ==== Sys2Proof/Laws/PerInstr.lean ====
section
/-! SUPPORT. A fact of every instruction's encoding, one lemma per constructor: its command meets its own row of the opcode
table, with every reserved bit zero (30_encoding.md R77, R80). -/

namespace Sys2Proof.Laws.TableRow

/-- The row of R80 an instruction is written in. -/
def rowFor : Instr → Row
  | .mwr _ _ _ => rowMwr
  | .wr32 _ _ => rowWr32
  | .domset _ _ => rowDomset
  | .busrd _ _ _ => rowBusrd
  | .buswr _ _ _ => rowBuswr
  | .idchk _ => rowIdchk
  | .lanesel _ _ => rowLanesel
  | .pingrp _ => rowPingrp
  | .gpiodir _ _ _ => rowGpiodir
  | .gpiowr _ _ _ => rowGpiowr
  | .endPlan => rowEnd

/-- The instruction's command meets its row's match under its row's mask (R77). -/
def Statement (i : Instr) : Prop := encode i &&& (rowFor i).mask = (rowFor i).pattern

/-- A packed command meets a row whose mask and match are packed the same way, field by field. -/
theorem meets {op a b c mop ma mb mc : Byte} {x y mx my : Word} {mask pattern : Command} {pop pa pb pc : Byte} {px py : Word}
    (hm : mask = packCommand mop ma mb mc mx my) (hp : pattern = packCommand pop pa pb pc px py)
    (h : op &&& mop = pop ∧ a &&& ma = pa ∧ b &&& mb = pb ∧ c &&& mc = pc ∧ x &&& mx = px ∧ y &&& my = py) :
    packCommand op a b c x y &&& mask = pattern := by
  obtain ⟨rfl, rfl, rfl, rfl, rfl, rfl⟩ := h
  rw [hm, hp, packCommand_and]

theorem dev_and (dev : BitVec 7) : dev.setWidth 8 &&& (0x80 : Byte) = 0 := by revert dev; decide

theorem bit_and (b : BitVec 1) : b.setWidth 8 &&& (0xFE : Byte) = 0 := by revert b; decide

theorem mode_and (m : BitVec 2) : m.setWidth 8 &&& (0xFC : Byte) = 0 := by revert m; decide

theorem name_and (n : BitVec 12) : n.setWidth 32 &&& (0xFFFFF000 : Word) = 0 := by
  rw [show (0xFFFFF000 : Word) = (0xFFFFF : BitVec 20) ++ (0 : BitVec 12) by decide]
  apply BitVec.eq_of_getLsbD_eq
  intro i hi
  simp only [BitVec.getLsbD_and, BitVec.getLsbD_setWidth, BitVec.getLsbD_append]
  split
  · simp
  · rw [BitVec.getLsbD_of_ge n i (by omega)]; simp

theorem mwr (addr : Word) (mask value : Half) : Statement (.mwr addr mask value) :=
  meets (mop := 0xFF) (ma := 0xFF) (mb := 0xFF) (mc := 0xFF) (mx := 0) (my := 0)
    (pop := 0x01) (pa := 0) (pb := 0) (pc := 0) (px := 0) (py := 0) rfl rfl (by simp)

theorem wr32 (addr data : Word) : Statement (.wr32 addr data) :=
  meets (mop := 0xFF) (ma := 0xFF) (mb := 0xFF) (mc := 0xFF) (mx := 0) (my := 0)
    (pop := 0x02) (pa := 0) (pb := 0) (pc := 0) (px := 0) (py := 0) rfl rfl (by simp)

theorem domset (dom : Byte) (lvl : VLevel) : Statement (.domset dom lvl) :=
  meets (mop := 0xFF) (ma := 0) (mb := 0xFE) (mc := 0xFF) (mx := 0xFFFFFFFF) (my := 0xFFFFFFFF)
    (pop := 0x03) (pa := 0) (pb := 0) (pc := 0) (px := 0) (py := 0) rfl rfl
    ⟨by decide, by simp, bit_and _, by decide, by decide, by decide⟩

theorem busrd (dev : BitVec 7) (reg : Byte) (idx : BitVec 1) : Statement (.busrd dev reg idx) :=
  meets (mop := 0xFF) (ma := 0x80) (mb := 0) (mc := 0xFE) (mx := 0xFFFFFFFF) (my := 0xFFFFFFFF)
    (pop := 0x04) (pa := 0) (pb := 0) (pc := 0) (px := 0) (py := 0) rfl rfl
    ⟨by decide, dev_and dev, by simp, bit_and idx, by decide, by decide⟩

theorem buswr (dev : BitVec 7) (reg data : Byte) : Statement (.buswr dev reg data) :=
  meets (mop := 0xFF) (ma := 0x80) (mb := 0) (mc := 0) (mx := 0xFFFFFFFF) (my := 0xFFFFFFFF)
    (pop := 0x05) (pa := 0) (pb := 0) (pc := 0) (px := 0) (py := 0) rfl rfl
    ⟨by decide, dev_and dev, by simp, by simp, by decide, by decide⟩

theorem idchk (expected : BitVec 12) : Statement (.idchk expected) :=
  meets (mop := 0xFF) (ma := 0xFF) (mb := 0xFF) (mc := 0xFF) (mx := 0xFFFFF000) (my := 0xFFFFFFFF)
    (pop := 0x06) (pa := 0) (pb := 0) (pc := 0) (px := 0) (py := 0) rfl rfl
    ⟨by decide, by decide, by decide, by decide, name_and expected, by decide⟩

theorem lanesel (lane : Byte) (mode : LaneMode) : Statement (.lanesel lane mode) :=
  meets (mop := 0xFF) (ma := 0) (mb := 0xFC) (mc := 0xFF) (mx := 0xFFFFFFFF) (my := 0xFFFFFFFF)
    (pop := 0x07) (pa := 0) (pb := 0) (pc := 0) (px := 0) (py := 0) rfl rfl
    ⟨by decide, by simp, mode_and mode, by decide, by decide, by decide⟩

theorem pingrp (g : Byte) : Statement (.pingrp g) :=
  meets (mop := 0xFF) (ma := 0) (mb := 0xFF) (mc := 0xFF) (mx := 0xFFFFFFFF) (my := 0xFFFFFFFF)
    (pop := 0x08) (pa := 0) (pb := 0) (pc := 0) (px := 0) (py := 0) rfl rfl
    ⟨by decide, by simp, by decide, by decide, by decide, by decide⟩

theorem gpiodir (bank pin : Byte) (dir : PinDir) : Statement (.gpiodir bank pin dir) :=
  meets (mop := 0xFF) (ma := 0) (mb := 0) (mc := 0xFE) (mx := 0xFFFFFFFF) (my := 0xFFFFFFFF)
    (pop := 0x09) (pa := 0) (pb := 0) (pc := 0) (px := 0) (py := 0) rfl rfl
    ⟨by decide, by simp, by simp, bit_and _, by decide, by decide⟩

theorem gpiowr (bank pin : Byte) (level : PinLevel) : Statement (.gpiowr bank pin level) :=
  meets (mop := 0xFF) (ma := 0) (mb := 0) (mc := 0xFE) (mx := 0xFFFFFFFF) (my := 0xFFFFFFFF)
    (pop := 0x0A) (pa := 0) (pb := 0) (pc := 0) (px := 0) (py := 0) rfl rfl
    ⟨by decide, by simp, by simp, bit_and _, by decide, by decide⟩

theorem endPlan : Statement .endPlan :=
  meets (mop := 0xFF) (ma := 0xFF) (mb := 0xFF) (mc := 0xFF) (mx := 0xFFFFFFFF) (my := 0xFFFFFFFF)
    (pop := 0x0F) (pa := 0) (pb := 0) (pc := 0) (px := 0) (py := 0) rfl rfl (by decide)

end Sys2Proof.Laws.TableRow
end

