-- ==== Sys2Proof/Laws/Rows.lean ====
section
/-! SUPPORT. The rows of the decode table field by field: which fields of a command a row's mask and match fix, and that a
decoding goes through exactly one row. -/

namespace Sys2Proof

/-- A row's mask and match, packed from fields, test a command field by field. -/
theorem mask_iff {k mask pattern : Command} {mop ma mb mc pop : Byte} {mx my : Word}
    (hm : mask = packCommand mop ma mb mc mx my) (hp : pattern = packCommand pop 0 0 0 0 0) :
    k &&& mask = pattern
      ↔ (Command.op k &&& mop = pop ∧ Command.a k &&& ma = 0 ∧ Command.b k &&& mb = 0 ∧ Command.c k &&& mc = 0
        ∧ Command.x k &&& mx = 0 ∧ Command.y k &&& my = 0) := by
  subst hm hp
  conv => lhs; lhs; rw [← packCommand_fields k]
  rw [packCommand_and, packCommand_inj]

theorem byte_and_ones (b : Byte) : b &&& (0xFF : Byte) = b := by revert b; decide

theorem word_and_ones (w : Word) : w &&& (0xFFFFFFFF : Word) = w := by
  rw [show (0xFFFFFFFF : Word) = BitVec.allOnes 32 by decide, BitVec.and_allOnes]

theorem byte_and_zero (b : Byte) : b &&& (0 : Byte) = 0 := by simp

theorem word_and_zero (w : Word) : w &&& (0 : Word) = 0 := by simp

/-- A command that decodes goes through a row of the table. -/
theorem row_of_decode {k : Command} {i : Instr} (h : decodeCommand k = .ok i) :
    ∃ r ∈ decodeTable, k &&& r.mask = r.pattern ∧ r.reserved k = false ∧ r.operands k = i := by
  unfold decodeCommand at h
  cases hr : rowOf (Command.op k) with
  | none => rw [hr] at h; cases h
  | some r =>
    rw [hr] at h
    dsimp only at h
    refine ⟨r, List.mem_of_find?_eq_some hr, ?_⟩
    split at h
    · next h1 =>
      split at h
      · cases h
      · next h2 => cases h; exact ⟨h1, Bool.eq_false_iff.2 h2, rfl⟩
    · cases h

/-- A command that meets its opcode's row decodes through it. -/
theorem decode_of_row {k : Command} {r : Row} (hr : rowOf (Command.op k) = some r) (h1 : k &&& r.mask = r.pattern)
    (h2 : r.reserved k = false) : decodeCommand k = .ok (r.operands k) := by
  unfold decodeCommand
  rw [hr]
  dsimp only
  rw [if_pos h1, h2]
  rfl

/-! ## The eleven rows -/

theorem meets_rowMwr {k : Command} :
    k &&& rowMwr.mask = rowMwr.pattern
      ↔ Command.op k = 1 ∧ Command.a k = 0 ∧ Command.b k = 0 ∧ Command.c k = 0 := by
  refine (mask_iff (mop := 0xFF) (ma := 0xFF) (mb := 0xFF) (mc := 0xFF) (mx := 0) (my := 0)
    (pop := 1) rfl rfl).trans ?_
  simp only [byte_and_ones, word_and_zero, and_true]

theorem meets_rowWr32 {k : Command} :
    k &&& rowWr32.mask = rowWr32.pattern
      ↔ Command.op k = 2 ∧ Command.a k = 0 ∧ Command.b k = 0 ∧ Command.c k = 0 := by
  refine (mask_iff (mop := 0xFF) (ma := 0xFF) (mb := 0xFF) (mc := 0xFF) (mx := 0) (my := 0)
    (pop := 2) rfl rfl).trans ?_
  simp only [byte_and_ones, word_and_zero, and_true]

theorem meets_rowDomset {k : Command} :
    k &&& rowDomset.mask = rowDomset.pattern
      ↔ Command.op k = 3 ∧ Command.b k &&& 0xFE = 0 ∧ Command.c k = 0 ∧ Command.x k = 0 ∧ Command.y k = 0 := by
  refine (mask_iff (mop := 0xFF) (ma := 0) (mb := 0xFE) (mc := 0xFF) (mx := 0xFFFFFFFF) (my := 0xFFFFFFFF)
    (pop := 3) rfl rfl).trans ?_
  simp only [byte_and_ones, byte_and_zero, word_and_ones, true_and]

theorem meets_rowBusrd {k : Command} :
    k &&& rowBusrd.mask = rowBusrd.pattern
      ↔ Command.op k = 4 ∧ Command.a k &&& 0x80 = 0 ∧ Command.c k &&& 0xFE = 0 ∧ Command.x k = 0 ∧ Command.y k = 0 := by
  refine (mask_iff (mop := 0xFF) (ma := 0x80) (mb := 0) (mc := 0xFE) (mx := 0xFFFFFFFF) (my := 0xFFFFFFFF)
    (pop := 4) rfl rfl).trans ?_
  simp only [byte_and_ones, byte_and_zero, word_and_ones, true_and]

theorem meets_rowBuswr {k : Command} :
    k &&& rowBuswr.mask = rowBuswr.pattern
      ↔ Command.op k = 5 ∧ Command.a k &&& 0x80 = 0 ∧ Command.x k = 0 ∧ Command.y k = 0 := by
  refine (mask_iff (mop := 0xFF) (ma := 0x80) (mb := 0) (mc := 0) (mx := 0xFFFFFFFF) (my := 0xFFFFFFFF)
    (pop := 5) rfl rfl).trans ?_
  simp only [byte_and_ones, byte_and_zero, word_and_ones, true_and]

theorem meets_rowIdchk {k : Command} :
    k &&& rowIdchk.mask = rowIdchk.pattern
      ↔ Command.op k = 6 ∧ Command.a k = 0 ∧ Command.b k = 0 ∧ Command.c k = 0 ∧ Command.x k &&& 0xFFFFF000 = 0 ∧ Command.y k = 0 := by
  refine (mask_iff (mop := 0xFF) (ma := 0xFF) (mb := 0xFF) (mc := 0xFF) (mx := 0xFFFFF000) (my := 0xFFFFFFFF)
    (pop := 6) rfl rfl).trans ?_
  simp only [byte_and_ones, word_and_ones]

theorem meets_rowLanesel {k : Command} :
    k &&& rowLanesel.mask = rowLanesel.pattern
      ↔ Command.op k = 7 ∧ Command.b k &&& 0xFC = 0 ∧ Command.c k = 0 ∧ Command.x k = 0 ∧ Command.y k = 0 := by
  refine (mask_iff (mop := 0xFF) (ma := 0) (mb := 0xFC) (mc := 0xFF) (mx := 0xFFFFFFFF) (my := 0xFFFFFFFF)
    (pop := 7) rfl rfl).trans ?_
  simp only [byte_and_ones, byte_and_zero, word_and_ones, true_and]

theorem meets_rowPingrp {k : Command} :
    k &&& rowPingrp.mask = rowPingrp.pattern
      ↔ Command.op k = 8 ∧ Command.b k = 0 ∧ Command.c k = 0 ∧ Command.x k = 0 ∧ Command.y k = 0 := by
  refine (mask_iff (mop := 0xFF) (ma := 0) (mb := 0xFF) (mc := 0xFF) (mx := 0xFFFFFFFF) (my := 0xFFFFFFFF)
    (pop := 8) rfl rfl).trans ?_
  simp only [byte_and_ones, byte_and_zero, word_and_ones, true_and]

theorem meets_rowGpiodir {k : Command} :
    k &&& rowGpiodir.mask = rowGpiodir.pattern
      ↔ Command.op k = 9 ∧ Command.c k &&& 0xFE = 0 ∧ Command.x k = 0 ∧ Command.y k = 0 := by
  refine (mask_iff (mop := 0xFF) (ma := 0) (mb := 0) (mc := 0xFE) (mx := 0xFFFFFFFF) (my := 0xFFFFFFFF)
    (pop := 9) rfl rfl).trans ?_
  simp only [byte_and_ones, byte_and_zero, word_and_ones, true_and]

theorem meets_rowGpiowr {k : Command} :
    k &&& rowGpiowr.mask = rowGpiowr.pattern
      ↔ Command.op k = 10 ∧ Command.c k &&& 0xFE = 0 ∧ Command.x k = 0 ∧ Command.y k = 0 := by
  refine (mask_iff (mop := 0xFF) (ma := 0) (mb := 0) (mc := 0xFE) (mx := 0xFFFFFFFF) (my := 0xFFFFFFFF)
    (pop := 10) rfl rfl).trans ?_
  simp only [byte_and_ones, byte_and_zero, word_and_ones, true_and]

theorem meets_rowEnd {k : Command} :
    k &&& rowEnd.mask = rowEnd.pattern
      ↔ Command.op k = 15 ∧ Command.a k = 0 ∧ Command.b k = 0 ∧ Command.c k = 0 ∧ Command.x k = 0 ∧ Command.y k = 0 := by
  refine (mask_iff (mop := 0xFF) (ma := 0xFF) (mb := 0xFF) (mc := 0xFF) (mx := 0xFFFFFFFF) (my := 0xFFFFFFFF)
    (pop := 15) rfl rfl).trans ?_
  simp only [byte_and_ones, word_and_ones]

end Sys2Proof
end

