-- ==== Sys2Proof/Laws/Views.lean ====
section
/-! SUPPORT. Each reading operation after each update that writes nothing it reads, true by rfl. What an update leaves
in the entry it writes stands in Laws/Ops.lean; what a launch draws, at the end. -/

namespace Sys2Proof.Machine

/-! ## `raise` -/

@[simp] theorem raise_mmioByte (c : Cause) (s : State) (a : Nat) :
    (s.raise c).mmioByte a = s.mmioByte a := rfl
@[simp] theorem raise_mreg (c : Cause) (s : State) (a : Word) : (s.raise c).mreg a = s.mreg a := rfl
@[simp] theorem raise_preg (c : Cause) (s : State) (a : Word) : (s.raise c).preg a = s.preg a := rfl
@[simp] theorem raise_pmicReg (c : Cause) (s : State) (r : Byte) : (s.raise c).pmicReg r = s.pmicReg r := rfl
@[simp] theorem raise_pin (c : Cause) (s : State) (b p : Byte) : (s.raise c).pin b p = s.pin b p := rfl
@[simp] theorem raise_modeOf (c : Cause) (s : State) (l : Byte) : (s.raise c).modeOf l = s.modeOf l := rfl
@[simp] theorem raise_levelOf (c : Cause) (s : State) (d : Byte) : (s.raise c).levelOf d = s.levelOf d := rfl
@[simp] theorem raise_cap (c : Cause) (s : State) (i : BitVec 1) : (s.raise c).cap i = s.cap i := rfl
@[simp] theorem raise_capValid (c : Cause) (s : State) (i : BitVec 1) :
    (s.raise c).capValid i = s.capValid i := rfl
@[simp] theorem raise_laneTaken (c : Cause) (s : State) (l : Byte) :
    (s.raise c).laneTaken l = s.laneTaken l := rfl
@[simp] theorem raise_domTaken (c : Cause) (s : State) (d : Byte) :
    (s.raise c).domTaken d = s.domTaken d := rfl

/-! ## `advance` -/

@[simp] theorem advance_mmioByte (s : State) (a : Nat) : (s.advance).mmioByte a = s.mmioByte a := rfl
@[simp] theorem advance_mreg (s : State) (a : Word) : (s.advance).mreg a = s.mreg a := rfl
@[simp] theorem advance_preg (s : State) (a : Word) : (s.advance).preg a = s.preg a := rfl
@[simp] theorem advance_pmicReg (s : State) (r : Byte) : (s.advance).pmicReg r = s.pmicReg r := rfl
@[simp] theorem advance_pin (s : State) (b p : Byte) : (s.advance).pin b p = s.pin b p := rfl
@[simp] theorem advance_modeOf (s : State) (l : Byte) : (s.advance).modeOf l = s.modeOf l := rfl
@[simp] theorem advance_levelOf (s : State) (d : Byte) : (s.advance).levelOf d = s.levelOf d := rfl
@[simp] theorem advance_cap (s : State) (i : BitVec 1) : (s.advance).cap i = s.cap i := rfl
@[simp] theorem advance_capValid (s : State) (i : BitVec 1) : (s.advance).capValid i = s.capValid i := rfl
@[simp] theorem advance_laneTaken (s : State) (l : Byte) : (s.advance).laneTaken l = s.laneTaken l := rfl
@[simp] theorem advance_domTaken (s : State) (d : Byte) : (s.advance).domTaken d = s.domTaken d := rfl

/-! ## `emit` -/

@[simp] theorem emit_mmioByte (e : Event) (s : State) (a : Nat) : (s.emit e).mmioByte a = s.mmioByte a := rfl
@[simp] theorem emit_mreg (e : Event) (s : State) (a : Word) : (s.emit e).mreg a = s.mreg a := rfl
@[simp] theorem emit_preg (e : Event) (s : State) (a : Word) : (s.emit e).preg a = s.preg a := rfl
@[simp] theorem emit_pmicReg (e : Event) (s : State) (r : Byte) : (s.emit e).pmicReg r = s.pmicReg r := rfl
@[simp] theorem emit_pin (e : Event) (s : State) (b p : Byte) : (s.emit e).pin b p = s.pin b p := rfl
@[simp] theorem emit_modeOf (e : Event) (s : State) (l : Byte) : (s.emit e).modeOf l = s.modeOf l := rfl
@[simp] theorem emit_levelOf (e : Event) (s : State) (d : Byte) : (s.emit e).levelOf d = s.levelOf d := rfl
@[simp] theorem emit_cap (e : Event) (s : State) (i : BitVec 1) : (s.emit e).cap i = s.cap i := rfl
@[simp] theorem emit_capValid (e : Event) (s : State) (i : BitVec 1) :
    (s.emit e).capValid i = s.capValid i := rfl
@[simp] theorem emit_laneTaken (e : Event) (s : State) (l : Byte) :
    (s.emit e).laneTaken l = s.laneTaken l := rfl
@[simp] theorem emit_domTaken (e : Event) (s : State) (d : Byte) : (s.emit e).domTaken d = s.domTaken d := rfl

/-! ## `asked` -/

@[simp] theorem asked_mmioByte (s : State) (a : Nat) : (s.asked).mmioByte a = s.mmioByte a := rfl
@[simp] theorem asked_mreg (s : State) (a : Word) : (s.asked).mreg a = s.mreg a := rfl
@[simp] theorem asked_preg (s : State) (a : Word) : (s.asked).preg a = s.preg a := rfl
@[simp] theorem asked_pmicReg (s : State) (r : Byte) : (s.asked).pmicReg r = s.pmicReg r := rfl
@[simp] theorem asked_pin (s : State) (b p : Byte) : (s.asked).pin b p = s.pin b p := rfl
@[simp] theorem asked_modeOf (s : State) (l : Byte) : (s.asked).modeOf l = s.modeOf l := rfl
@[simp] theorem asked_levelOf (s : State) (d : Byte) : (s.asked).levelOf d = s.levelOf d := rfl
@[simp] theorem asked_cap (s : State) (i : BitVec 1) : (s.asked).cap i = s.cap i := rfl
@[simp] theorem asked_capValid (s : State) (i : BitVec 1) : (s.asked).capValid i = s.capValid i := rfl
@[simp] theorem asked_laneTaken (s : State) (l : Byte) : (s.asked).laneTaken l = s.laneTaken l := rfl
@[simp] theorem asked_domTaken (s : State) (d : Byte) : (s.asked).domTaken d = s.domTaken d := rfl

/-! ## `setCapture` -/

@[simp] theorem setCapture_mmioByte (idx : BitVec 1) (v : Byte) (s : State) (a : Nat) :
    (s.setCapture idx v).mmioByte a = s.mmioByte a := rfl
@[simp] theorem setCapture_mreg (idx : BitVec 1) (v : Byte) (s : State) (a : Word) :
    (s.setCapture idx v).mreg a = s.mreg a := rfl
@[simp] theorem setCapture_preg (idx : BitVec 1) (v : Byte) (s : State) (a : Word) :
    (s.setCapture idx v).preg a = s.preg a := rfl
@[simp] theorem setCapture_pmicReg (idx : BitVec 1) (v : Byte) (s : State) (r : Byte) :
    (s.setCapture idx v).pmicReg r = s.pmicReg r := rfl
@[simp] theorem setCapture_pin (idx : BitVec 1) (v : Byte) (s : State) (b p : Byte) :
    (s.setCapture idx v).pin b p = s.pin b p := rfl
@[simp] theorem setCapture_modeOf (idx : BitVec 1) (v : Byte) (s : State) (l : Byte) :
    (s.setCapture idx v).modeOf l = s.modeOf l := rfl
@[simp] theorem setCapture_levelOf (idx : BitVec 1) (v : Byte) (s : State) (d : Byte) :
    (s.setCapture idx v).levelOf d = s.levelOf d := rfl
@[simp] theorem setCapture_laneTaken (idx : BitVec 1) (v : Byte) (s : State) (l : Byte) :
    (s.setCapture idx v).laneTaken l = s.laneTaken l := rfl
@[simp] theorem setCapture_domTaken (idx : BitVec 1) (v : Byte) (s : State) (d : Byte) :
    (s.setCapture idx v).domTaken d = s.domTaken d := rfl

/-! ## `setIdentity` -/

@[simp] theorem setIdentity_mmioByte (s : State) (a : Nat) : (s.setIdentity).mmioByte a = s.mmioByte a := rfl
@[simp] theorem setIdentity_mreg (s : State) (a : Word) : (s.setIdentity).mreg a = s.mreg a := rfl
@[simp] theorem setIdentity_preg (s : State) (a : Word) : (s.setIdentity).preg a = s.preg a := rfl
@[simp] theorem setIdentity_pmicReg (s : State) (r : Byte) : (s.setIdentity).pmicReg r = s.pmicReg r := rfl
@[simp] theorem setIdentity_pin (s : State) (b p : Byte) : (s.setIdentity).pin b p = s.pin b p := rfl
@[simp] theorem setIdentity_modeOf (s : State) (l : Byte) : (s.setIdentity).modeOf l = s.modeOf l := rfl
@[simp] theorem setIdentity_levelOf (s : State) (d : Byte) : (s.setIdentity).levelOf d = s.levelOf d := rfl
@[simp] theorem setIdentity_cap (s : State) (i : BitVec 1) : (s.setIdentity).cap i = s.cap i := rfl
@[simp] theorem setIdentity_capValid (s : State) (i : BitVec 1) :
    (s.setIdentity).capValid i = s.capValid i := rfl
@[simp] theorem setIdentity_laneTaken (s : State) (l : Byte) :
    (s.setIdentity).laneTaken l = s.laneTaken l := rfl
@[simp] theorem setIdentity_domTaken (s : State) (d : Byte) : (s.setIdentity).domTaken d = s.domTaken d := rfl

/-! ## `addLane` -/

@[simp] theorem addLane_mmioByte (lane : Byte) (s : State) (a : Nat) :
    (s.addLane lane).mmioByte a = s.mmioByte a := rfl
@[simp] theorem addLane_mreg (lane : Byte) (s : State) (a : Word) : (s.addLane lane).mreg a = s.mreg a := rfl
@[simp] theorem addLane_preg (lane : Byte) (s : State) (a : Word) : (s.addLane lane).preg a = s.preg a := rfl
@[simp] theorem addLane_pmicReg (lane : Byte) (s : State) (r : Byte) :
    (s.addLane lane).pmicReg r = s.pmicReg r := rfl
@[simp] theorem addLane_pin (lane : Byte) (s : State) (b p : Byte) :
    (s.addLane lane).pin b p = s.pin b p := rfl
@[simp] theorem addLane_modeOf (lane : Byte) (s : State) (l : Byte) :
    (s.addLane lane).modeOf l = s.modeOf l := rfl
@[simp] theorem addLane_levelOf (lane : Byte) (s : State) (d : Byte) :
    (s.addLane lane).levelOf d = s.levelOf d := rfl
@[simp] theorem addLane_cap (lane : Byte) (s : State) (i : BitVec 1) : (s.addLane lane).cap i = s.cap i := rfl
@[simp] theorem addLane_capValid (lane : Byte) (s : State) (i : BitVec 1) :
    (s.addLane lane).capValid i = s.capValid i := rfl
@[simp] theorem addLane_domTaken (lane : Byte) (s : State) (d : Byte) :
    (s.addLane lane).domTaken d = s.domTaken d := rfl

/-! ## `addDom` -/

@[simp] theorem addDom_mmioByte (dom : Byte) (s : State) (a : Nat) :
    (s.addDom dom).mmioByte a = s.mmioByte a := rfl
@[simp] theorem addDom_mreg (dom : Byte) (s : State) (a : Word) : (s.addDom dom).mreg a = s.mreg a := rfl
@[simp] theorem addDom_preg (dom : Byte) (s : State) (a : Word) : (s.addDom dom).preg a = s.preg a := rfl
@[simp] theorem addDom_pmicReg (dom : Byte) (s : State) (r : Byte) :
    (s.addDom dom).pmicReg r = s.pmicReg r := rfl
@[simp] theorem addDom_pin (dom : Byte) (s : State) (b p : Byte) : (s.addDom dom).pin b p = s.pin b p := rfl
@[simp] theorem addDom_modeOf (dom : Byte) (s : State) (l : Byte) :
    (s.addDom dom).modeOf l = s.modeOf l := rfl
@[simp] theorem addDom_levelOf (dom : Byte) (s : State) (d : Byte) :
    (s.addDom dom).levelOf d = s.levelOf d := rfl
@[simp] theorem addDom_cap (dom : Byte) (s : State) (i : BitVec 1) : (s.addDom dom).cap i = s.cap i := rfl
@[simp] theorem addDom_capValid (dom : Byte) (s : State) (i : BitVec 1) :
    (s.addDom dom).capValid i = s.capValid i := rfl
@[simp] theorem addDom_laneTaken (dom : Byte) (s : State) (l : Byte) :
    (s.addDom dom).laneTaken l = s.laneTaken l := rfl

/-! ## `memWrite` -/

@[simp] theorem memWrite_pmicReg (addr w : Word) (s : State) (r : Byte) :
    (s.memWrite addr w).pmicReg r = s.pmicReg r := rfl
@[simp] theorem memWrite_pin (addr w : Word) (s : State) (b p : Byte) :
    (s.memWrite addr w).pin b p = s.pin b p := rfl
@[simp] theorem memWrite_modeOf (addr w : Word) (s : State) (l : Byte) :
    (s.memWrite addr w).modeOf l = s.modeOf l := rfl
@[simp] theorem memWrite_levelOf (addr w : Word) (s : State) (d : Byte) :
    (s.memWrite addr w).levelOf d = s.levelOf d := rfl
@[simp] theorem memWrite_cap (addr w : Word) (s : State) (i : BitVec 1) :
    (s.memWrite addr w).cap i = s.cap i := rfl
@[simp] theorem memWrite_capValid (addr w : Word) (s : State) (i : BitVec 1) :
    (s.memWrite addr w).capValid i = s.capValid i := rfl
@[simp] theorem memWrite_laneTaken (addr w : Word) (s : State) (l : Byte) :
    (s.memWrite addr w).laneTaken l = s.laneTaken l := rfl
@[simp] theorem memWrite_domTaken (addr w : Word) (s : State) (d : Byte) :
    (s.memWrite addr w).domTaken d = s.domTaken d := rfl

/-! ## `setPin` -/

@[simp] theorem setPin_mmioByte (bank pin : Byte) (v : Pin) (s : State) (a : Nat) :
    (s.setPin bank pin v).mmioByte a = s.mmioByte a := rfl
@[simp] theorem setPin_mreg (bank pin : Byte) (v : Pin) (s : State) (a : Word) :
    (s.setPin bank pin v).mreg a = s.mreg a := rfl
@[simp] theorem setPin_preg (bank pin : Byte) (v : Pin) (s : State) (a : Word) :
    (s.setPin bank pin v).preg a = s.preg a := rfl
@[simp] theorem setPin_pmicReg (bank pin : Byte) (v : Pin) (s : State) (r : Byte) :
    (s.setPin bank pin v).pmicReg r = s.pmicReg r := rfl
@[simp] theorem setPin_modeOf (bank pin : Byte) (v : Pin) (s : State) (l : Byte) :
    (s.setPin bank pin v).modeOf l = s.modeOf l := rfl
@[simp] theorem setPin_levelOf (bank pin : Byte) (v : Pin) (s : State) (d : Byte) :
    (s.setPin bank pin v).levelOf d = s.levelOf d := rfl
@[simp] theorem setPin_cap (bank pin : Byte) (v : Pin) (s : State) (i : BitVec 1) :
    (s.setPin bank pin v).cap i = s.cap i := rfl
@[simp] theorem setPin_capValid (bank pin : Byte) (v : Pin) (s : State) (i : BitVec 1) :
    (s.setPin bank pin v).capValid i = s.capValid i := rfl
@[simp] theorem setPin_laneTaken (bank pin : Byte) (v : Pin) (s : State) (l : Byte) :
    (s.setPin bank pin v).laneTaken l = s.laneTaken l := rfl
@[simp] theorem setPin_domTaken (bank pin : Byte) (v : Pin) (s : State) (d : Byte) :
    (s.setPin bank pin v).domTaken d = s.domTaken d := rfl

/-! ## `applyDescs` -/

@[simp] theorem applyDescs_mmioByte (ds : List Word) (s : State) (a : Nat) :
    (s.applyDescs ds).mmioByte a = s.mmioByte a := rfl
@[simp] theorem applyDescs_mreg (ds : List Word) (s : State) (a : Word) :
    (s.applyDescs ds).mreg a = s.mreg a := rfl
@[simp] theorem applyDescs_preg (ds : List Word) (s : State) (a : Word) :
    (s.applyDescs ds).preg a = s.preg a := rfl
@[simp] theorem applyDescs_pmicReg (ds : List Word) (s : State) (r : Byte) :
    (s.applyDescs ds).pmicReg r = s.pmicReg r := rfl
@[simp] theorem applyDescs_modeOf (ds : List Word) (s : State) (l : Byte) :
    (s.applyDescs ds).modeOf l = s.modeOf l := rfl
@[simp] theorem applyDescs_levelOf (ds : List Word) (s : State) (d : Byte) :
    (s.applyDescs ds).levelOf d = s.levelOf d := rfl
@[simp] theorem applyDescs_cap (ds : List Word) (s : State) (i : BitVec 1) :
    (s.applyDescs ds).cap i = s.cap i := rfl
@[simp] theorem applyDescs_capValid (ds : List Word) (s : State) (i : BitVec 1) :
    (s.applyDescs ds).capValid i = s.capValid i := rfl
@[simp] theorem applyDescs_laneTaken (ds : List Word) (s : State) (l : Byte) :
    (s.applyDescs ds).laneTaken l = s.laneTaken l := rfl
@[simp] theorem applyDescs_domTaken (ds : List Word) (s : State) (d : Byte) :
    (s.applyDescs ds).domTaken d = s.domTaken d := rfl

/-! ## `pmicWritten` -/

@[simp] theorem pmicWritten_mmioByte (dev : BitVec 7) (reg v : Byte) (s : State) (a : Nat) :
    (s.pmicWritten dev reg v).mmioByte a = s.mmioByte a := rfl
@[simp] theorem pmicWritten_mreg (dev : BitVec 7) (reg v : Byte) (s : State) (a : Word) :
    (s.pmicWritten dev reg v).mreg a = s.mreg a := rfl
@[simp] theorem pmicWritten_preg (dev : BitVec 7) (reg v : Byte) (s : State) (a : Word) :
    (s.pmicWritten dev reg v).preg a = s.preg a := rfl
@[simp] theorem pmicWritten_pin (dev : BitVec 7) (reg v : Byte) (s : State) (b p : Byte) :
    (s.pmicWritten dev reg v).pin b p = s.pin b p := rfl
@[simp] theorem pmicWritten_modeOf (dev : BitVec 7) (reg v : Byte) (s : State) (l : Byte) :
    (s.pmicWritten dev reg v).modeOf l = s.modeOf l := rfl
@[simp] theorem pmicWritten_levelOf (dev : BitVec 7) (reg v : Byte) (s : State) (d : Byte) :
    (s.pmicWritten dev reg v).levelOf d = s.levelOf d := rfl
@[simp] theorem pmicWritten_cap (dev : BitVec 7) (reg v : Byte) (s : State) (i : BitVec 1) :
    (s.pmicWritten dev reg v).cap i = s.cap i := rfl
@[simp] theorem pmicWritten_capValid (dev : BitVec 7) (reg v : Byte) (s : State) (i : BitVec 1) :
    (s.pmicWritten dev reg v).capValid i = s.capValid i := rfl
@[simp] theorem pmicWritten_laneTaken (dev : BitVec 7) (reg v : Byte) (s : State) (l : Byte) :
    (s.pmicWritten dev reg v).laneTaken l = s.laneTaken l := rfl
@[simp] theorem pmicWritten_domTaken (dev : BitVec 7) (reg v : Byte) (s : State) (d : Byte) :
    (s.pmicWritten dev reg v).domTaken d = s.domTaken d := rfl

/-! ## `pmicDrawn` -/

@[simp] theorem pmicDrawn_mmioByte (dev : BitVec 7) (reg v : Byte) (s : State) (a : Nat) :
    (s.pmicDrawn dev reg v).mmioByte a = s.mmioByte a := rfl
@[simp] theorem pmicDrawn_mreg (dev : BitVec 7) (reg v : Byte) (s : State) (a : Word) :
    (s.pmicDrawn dev reg v).mreg a = s.mreg a := rfl
@[simp] theorem pmicDrawn_preg (dev : BitVec 7) (reg v : Byte) (s : State) (a : Word) :
    (s.pmicDrawn dev reg v).preg a = s.preg a := rfl
@[simp] theorem pmicDrawn_pin (dev : BitVec 7) (reg v : Byte) (s : State) (b p : Byte) :
    (s.pmicDrawn dev reg v).pin b p = s.pin b p := rfl
@[simp] theorem pmicDrawn_modeOf (dev : BitVec 7) (reg v : Byte) (s : State) (l : Byte) :
    (s.pmicDrawn dev reg v).modeOf l = s.modeOf l := rfl
@[simp] theorem pmicDrawn_levelOf (dev : BitVec 7) (reg v : Byte) (s : State) (d : Byte) :
    (s.pmicDrawn dev reg v).levelOf d = s.levelOf d := rfl
@[simp] theorem pmicDrawn_cap (dev : BitVec 7) (reg v : Byte) (s : State) (i : BitVec 1) :
    (s.pmicDrawn dev reg v).cap i = s.cap i := rfl
@[simp] theorem pmicDrawn_capValid (dev : BitVec 7) (reg v : Byte) (s : State) (i : BitVec 1) :
    (s.pmicDrawn dev reg v).capValid i = s.capValid i := rfl
@[simp] theorem pmicDrawn_laneTaken (dev : BitVec 7) (reg v : Byte) (s : State) (l : Byte) :
    (s.pmicDrawn dev reg v).laneTaken l = s.laneTaken l := rfl
@[simp] theorem pmicDrawn_domTaken (dev : BitVec 7) (reg v : Byte) (s : State) (d : Byte) :
    (s.pmicDrawn dev reg v).domTaken d = s.domTaken d := rfl

/-! ## `setMode` -/

@[simp] theorem setMode_mmioByte (lane : Byte) (m : LaneMode) (s : State) (a : Nat) :
    (s.setMode lane m).mmioByte a = s.mmioByte a := rfl
@[simp] theorem setMode_mreg (lane : Byte) (m : LaneMode) (s : State) (a : Word) :
    (s.setMode lane m).mreg a = s.mreg a := rfl
@[simp] theorem setMode_preg (lane : Byte) (m : LaneMode) (s : State) (a : Word) :
    (s.setMode lane m).preg a = s.preg a := rfl
@[simp] theorem setMode_pmicReg (lane : Byte) (m : LaneMode) (s : State) (r : Byte) :
    (s.setMode lane m).pmicReg r = s.pmicReg r := rfl
@[simp] theorem setMode_pin (lane : Byte) (m : LaneMode) (s : State) (b p : Byte) :
    (s.setMode lane m).pin b p = s.pin b p := rfl
@[simp] theorem setMode_levelOf (lane : Byte) (m : LaneMode) (s : State) (d : Byte) :
    (s.setMode lane m).levelOf d = s.levelOf d := rfl
@[simp] theorem setMode_cap (lane : Byte) (m : LaneMode) (s : State) (i : BitVec 1) :
    (s.setMode lane m).cap i = s.cap i := rfl
@[simp] theorem setMode_capValid (lane : Byte) (m : LaneMode) (s : State) (i : BitVec 1) :
    (s.setMode lane m).capValid i = s.capValid i := rfl
@[simp] theorem setMode_laneTaken (lane : Byte) (m : LaneMode) (s : State) (l : Byte) :
    (s.setMode lane m).laneTaken l = s.laneTaken l := rfl
@[simp] theorem setMode_domTaken (lane : Byte) (m : LaneMode) (s : State) (d : Byte) :
    (s.setMode lane m).domTaken d = s.domTaken d := rfl

/-! ## `setLevel` -/

@[simp] theorem setLevel_mmioByte (dom : Byte) (v : VLevel) (s : State) (a : Nat) :
    (s.setLevel dom v).mmioByte a = s.mmioByte a := rfl
@[simp] theorem setLevel_mreg (dom : Byte) (v : VLevel) (s : State) (a : Word) :
    (s.setLevel dom v).mreg a = s.mreg a := rfl
@[simp] theorem setLevel_preg (dom : Byte) (v : VLevel) (s : State) (a : Word) :
    (s.setLevel dom v).preg a = s.preg a := rfl
@[simp] theorem setLevel_pmicReg (dom : Byte) (v : VLevel) (s : State) (r : Byte) :
    (s.setLevel dom v).pmicReg r = s.pmicReg r := rfl
@[simp] theorem setLevel_pin (dom : Byte) (v : VLevel) (s : State) (b p : Byte) :
    (s.setLevel dom v).pin b p = s.pin b p := rfl
@[simp] theorem setLevel_modeOf (dom : Byte) (v : VLevel) (s : State) (l : Byte) :
    (s.setLevel dom v).modeOf l = s.modeOf l := rfl
@[simp] theorem setLevel_cap (dom : Byte) (v : VLevel) (s : State) (i : BitVec 1) :
    (s.setLevel dom v).cap i = s.cap i := rfl
@[simp] theorem setLevel_capValid (dom : Byte) (v : VLevel) (s : State) (i : BitVec 1) :
    (s.setLevel dom v).capValid i = s.capValid i := rfl
@[simp] theorem setLevel_laneTaken (dom : Byte) (v : VLevel) (s : State) (l : Byte) :
    (s.setLevel dom v).laneTaken l = s.laneTaken l := rfl
@[simp] theorem setLevel_domTaken (dom : Byte) (v : VLevel) (s : State) (d : Byte) :
    (s.setLevel dom v).domTaken d = s.domTaken d := rfl

/-! ## `blockReset` and `launch` -/

@[simp] theorem blockReset_mmioByte (a : Nat) (s : State) : s.blockReset.mmioByte a = s.mmioByte a := rfl
@[simp] theorem blockReset_pmicReg (r : Byte) (s : State) : s.blockReset.pmicReg r = s.pmicReg r := rfl
@[simp] theorem blockReset_pin (b p : Byte) (s : State) : s.blockReset.pin b p = s.pin b p := rfl
@[simp] theorem blockReset_modeOf (l : Byte) (s : State) : s.blockReset.modeOf l = s.modeOf l := rfl
@[simp] theorem blockReset_levelOf (d : Byte) (s : State) : s.blockReset.levelOf d = s.levelOf d := rfl

theorem launch_mmioByte (x : ExternalDraw) (a : Nat) (s : State) :
    (s.launch x).mmioByte a = if cellByte s.cfg a then sparseGet Config.unlistedByte x.mem a else Config.unlistedByte :=
  sparseGet_of _ _ _ _

@[simp] theorem launch_pmicReg (x : ExternalDraw) (r : Byte) (s : State) :
    (s.launch x).pmicReg r = sparseGet Config.unlistedByte x.pmic r.toNat :=
  (sparseGet_of _ _ _ _).trans (if_pos (decide_eq_true r.isLt))

@[simp] theorem launch_pin (x : ExternalDraw) (b p : Byte) (s : State) :
    (s.launch x).pin b p = sparseGet Config.unlistedPin x.pins (pinKey b p) :=
  (sparseGet_of _ _ _ _).trans (if_pos (decide_eq_true (by unfold pinKey; omega)))

@[simp] theorem launch_modeOf (x : ExternalDraw) (l : Byte) (s : State) :
    (s.launch x).modeOf l = sparseGet Config.unlistedMode x.laneMode l.toNat :=
  (sparseGet_of _ _ _ _).trans (if_pos (decide_eq_true l.isLt))

@[simp] theorem launch_levelOf (x : ExternalDraw) (d : Byte) (s : State) :
    (s.launch x).levelOf d = sparseGet Config.unlistedLevel x.domLevel d.toNat :=
  (sparseGet_of _ _ _ _).trans (if_pos (decide_eq_true d.isLt))

end Sys2Proof.Machine
end

