-- ==== Sys2Proof/Tests/Slice0.lean ====
section
/-! SUPPORT. The model's own tests: words and outcomes written out from the spec (95_test_vectors.md and the rules named), the
WellFormed smoke test, and for every statement with hypotheses a concrete state and operands that meet them. -/

namespace Sys2Proof.Tests

-- One theorem at a time: many kernel evaluations side by side would need more threads than the compile may start.
set_option Elab.async false

open Sys2Proof Sys2Proof.Machine Sys2Proof.Safety

/-! ## Helpers -/

/-- Twelve ROM bytes from the three words a vector gives (R53). -/
def rom (w0 w1 w2 : Word) : List Byte :=
  [byteOfWord w0 0, byteOfWord w0 1, byteOfWord w0 2, byteOfWord w0 3,
   byteOfWord w1 0, byteOfWord w1 1, byteOfWord w1 2, byteOfWord w1 3,
   byteOfWord w2 0, byteOfWord w2 1, byteOfWord w2 2, byteOfWord w2 3]

/-- The reset state in Run, at command 0 of the board plan. -/
def live : State := { State.reset with st := .run }

/-- `live` with the answers the oracle is to give. -/
def asking (as : List Answer) : State := { live with answers := as }

/-- `live` with one MMIO kind and some cells. -/
def cells (kind : RegKind) (m : Memory) : State :=
  { live with cfg := { live.cfg with regKind := [(0x1000, kind)] }, mem := m }

/-- `live` with group 0 as given. -/
def grouped (ds : List Word) : State :=
  { live with cfg := { live.cfg with pinGroups := [ds.map storedOf, [], [], [], []] } }

/-- `live` after both identification reads. -/
def captured (hi lo : Byte) : State := { live with cap0 := hi, cap1 := lo, capValid0 := true, capValid1 := true }

/-- `live` with the words of one command at `pc`. -/
def holding (w0 w1 w2 : Word) : State := { live with planRom := layBytes [] 0 (rom w0 w1 w2) }

/-- The next state, if the outcome is one. -/
def nextOf (o : Host.Outcome State Fault Refusal) : Option State :=
  match o with
  | .next t => some t
  | .fault _ => none
  | .refused _ => none

/-- The state after one step that runs `i` from `s`. -/
def after (s : State) (i : Instr) : Option State := nextOf (step (s.placedAtPc (encodeBytes i)))

/-- One line of text, assembled with the reset state's parameters. -/
def assembled (line : String) : Except AsmError (List Instr) :=
  assembleLine State.reset.cfg State.reset.planLen line.toList

/-- What a launch draws. -/
def drawn : ExternalDraw :=
  ⟨[(0x20002, 7), (0x20000, 0x34), (0x20000, 9)], [(0xED, 0x80)], [], [], [(6, .v3_3)]⟩

/-- The outcome is a next state. -/
def goes (o : Host.Outcome State Fault Refusal) : Bool := (nextOf o).isSome

/-- What the decoder refuses. -/
def refused (bytes : List Byte) : Bool :=
  match decode bytes with
  | .ok _ => false
  | .error _ => true

/-! ## WellFormed -/

theorem test_wf_refuses_reserved_lane_mode : Instr.wf (.lanesel 0 3) = false := by decide

theorem test_wf_accepts_legal_lane_modes :
    Instr.wf (.lanesel 0 0) = true ∧ Instr.wf (.lanesel 0 1) = true ∧ Instr.wf (.lanesel 0 2) = true := by decide

/-! ## Decoding: the words of 95_test_vectors.md section 2.1 -/

theorem test_decode_mwr :
    decode (rom 0x00000001 0x00001000 0x00F00F5A) = .ok (.mwr 0x00001000 0x00F0 0x0F5A) := rfl

theorem test_decode_wr32 :
    decode (rom 0x00000002 0x00002000 0xFFFFFFFF) = .ok (.wr32 0x00002000 0xFFFFFFFF) := rfl

theorem test_decode_domset :
    decode (rom 0x00010303 0 0) = .ok (.domset 3 .v3_3) ∧ decode (rom 0x00000203 0 0) = .ok (.domset 2 .v1_8) :=
  ⟨rfl, rfl⟩

theorem test_decode_busrd :
    decode (rom 0x00ED2004 0 0) = .ok (.busrd 0x20 0xED 0) ∧ decode (rom 0x01EE2004 0 0) = .ok (.busrd 0x20 0xEE 1) :=
  ⟨rfl, rfl⟩

theorem test_decode_buswr : decode (rom 0x5A102005 0 0) = .ok (.buswr 0x20 0x10 0x5A) := rfl

theorem test_decode_idchk : decode (rom 0x00000006 0x00000809 0) = .ok (.idchk 0x809) := rfl

theorem test_decode_lanesel :
    decode (rom 0x00000107 0 0) = .ok (.lanesel 1 LaneMode.usb3)
      ∧ decode (rom 0x00010207 0 0) = .ok (.lanesel 2 LaneMode.pcieGen2)
      ∧ decode (rom 0x00020207 0 0) = .ok (.lanesel 2 LaneMode.pcieGen3x2) := ⟨rfl, rfl, rfl⟩

theorem test_decode_pingrp :
    decode (rom 0x00000008 0 0) = .ok (.pingrp 0) ∧ decode (rom 0x00000408 0 0) = .ok (.pingrp 4) := ⟨rfl, rfl⟩

theorem test_decode_gpiodir : decode (rom 0x01050209 0 0) = .ok (.gpiodir 2 5 .output) := rfl

theorem test_decode_gpiowr :
    decode (rom 0x0105020A 0 0) = .ok (.gpiowr 2 5 .high) ∧ decode (rom 0x0005020A 0 0) = .ok (.gpiowr 2 5 .low) :=
  ⟨rfl, rfl⟩

theorem test_decode_end : decode (rom 0x0000000F 0 0) = .ok .endPlan := rfl

/-- The decoder faults of section 2.1, opcodes. -/
theorem test_decode_refuses_reserved_opcodes :
    refused (rom 0 0 0) = true ∧ refused (rom 0xFFFFFFFF 0xFFFFFFFF 0xFFFFFFFF) = true
      ∧ refused (rom 0x0000000B 0 0) = true ∧ refused (rom 0x00000010 0 0) = true := by decide

/-- The decoder faults of section 2.1, must-be-zero bits and LANESEL's reserved value. -/
theorem test_decode_refuses_reserved_bits :
    refused (rom 0x0000010F 0 0) = true ∧ refused (rom 0x0000000F 0 1) = true
      ∧ refused (rom 0x00000101 0x00001000 0) = true ∧ refused (rom 0x00020003 0 0) = true
      ∧ refused (rom 0x00ED8004 0 0) = true ∧ refused (rom 0x02ED2004 0 0) = true
      ∧ refused (rom 0x5A108005 0 0) = true ∧ refused (rom 0x00000006 0x00001809 0) = true
      ∧ refused (rom 0x00030007 0 0) = true ∧ refused (rom 0x00040007 0 0) = true
      ∧ refused (rom 0x01000008 0 0) = true ∧ refused (rom 0x0200000A 0 0) = true
      ∧ refused (rom 0x00000008 0 1) = true := by decide

/-- R79: no opcode is in two rows, and every row's mask covers the opcode, so no two rows overlap. -/
theorem test_rows_do_not_overlap :
    (decodeTable.map (fun r => Command.op r.pattern)).Nodup
      ∧ decodeTable.all (fun r => Command.op r.mask == 0xFF) = true := by decide

/-- The W0 words of program P6, which the reset ROM holds (R170). -/
theorem test_reset_rom_words :
    (List.range 40).map (fun k => State.reset.romWord (3 * k))
      = [0x00010003, 0x00010103, 0x00000203, 0x00010303, 0x00000403, 0x00010503, 0x00010603, 0x00ED2004, 0x01EE2004,
         0x00000006] ++ [0xA0102005, 0xA1112005, 0xA2122005, 0xA3132005, 0xA4142005, 0xA5152005, 0xA6162005, 0xA7172005,
         0xA8182005, 0xFF202005, 0x0F212005, 0x03222005, 0x3C2E2005, 0x5A2F2005] ++ [0x00000002, 0x00000002, 0x00000001,
         0x00000007, 0x00000107, 0x00000008, 0x00000108, 0x00010207, 0x00000308, 0x00000208, 0x01040309, 0x0104030A,
         0x01050309, 0x0105030A, 0x00000001, 0x0000000F] := by decide +kernel

theorem test_reset_rom_is_the_board_plan :
    (nextOf (State.reset.loadPlan (boardPlan State.reset.cfg))).map (fun t => (t.planRom, t.planLen))
      = some (State.reset.planRom, State.reset.planLen) := by decide +kernel

/-- The illustrative groups of program P6 and table T0, as words. -/
theorem test_reset_groups :
    [0, 1, 2, 3, 4, 5].map (fun g => State.reset.group g)
      = [some [0x00410103], some [0x00420200, 0x00420201], some [0x00820302], some [0x00110300, 0x00110301], some [],
         none] := by decide +kernel

/-! ## One step of each command (95_test_vectors.md sections 2.2 to 2.7) -/

theorem test_compose :
    compose 0x0000 0x1234 = 0 ∧ compose 0xFFFF 0x1234 = 0xFFFF1234 ∧ compose 0x00F0 0x0F5A = 0x00F00050
      ∧ compose 0x8001 0xFFFF = 0x80018001 ∧ compose 0xFF00 0x00FF = 0xFF000000 := by decide

theorem test_merge :
    mergeMasked 0xA5A5 0x00FF0012 = 0xA512 ∧ mergeMasked 0xFFFF 0xF0000000 = 0x0FFF
      ∧ mergeMasked 0x5555 0x0F0F0A0A = 0x5A5A ∧ mergeMasked 0x1234 0x0000FFFF = 0x1234
      ∧ mergeMasked 0xFFFF 0x00010000 = 0xFFFE := by decide

theorem test_compose32 :
    compose32 0x00010000 0x00010000 = 0x00010000 ∧ compose32 0x000100FF 0x000100AA = 0x00FF00AA
      ∧ compose32 0x0000FFFF 0x00001234 = 0xFFFF1234 := by decide

theorem test_mwr_masked :
    (after (cells .masked [(0x1000, 0x34), (0x1001, 0x12)]) (.mwr 0x1000 0x00F0 0x0F5A)).map
        (fun t => (t.mreg 0x1000, t.pc, t.log))
      = some (0x1254, 1, [.mmioWr 0x1000 0x00F00050]) := by decide +kernel

theorem test_mwr_misaligned :
    (after live (.mwr 0x1002 0xFFFF 0)).map (fun t => (t.status, t.log, t.mem)) = some (0x00000063, [], []) := by
  decide +kernel

theorem test_wr32_plain :
    (after (cells .plain []) (.wr32 0x1000 0xFFFFFFFF)).map (fun t => (t.preg 0x1000, t.log))
      = some (0xFFFFFFFF, [.mmioWr 0x1000 0xFFFFFFFF]) := by decide +kernel

/-- R58, R33: a Plain register reads back whole, and there is no cell at an address that is not 4-aligned. -/
theorem test_read_back :
    (cells .plain [(0x1001, 0x12)]).mmioReadBack 0x1000 = some 0x00001200
      ∧ State.mmioReadBack { live with cfg := { live.cfg with regKind := [(0x1002, .plain)] } } 0x1002 = none := by
  decide +kernel

theorem test_wr32_unmodelled :
    (after (cells .unmodelled []) (.wr32 0x1000 1)).map (fun t => (t.mem, t.log)) = some ([], [.mmioWr 0x1000 1]) := by
  decide +kernel

theorem test_pingrp_drive_default_keeps :
    (after (grouped [0x00510100, 0x00020100]) (.pingrp 0)).map (fun t => (t.pin 1 0, t.pc))
      = some (⟨2, .none, 1, .input, .low⟩, 1) := by decide +kernel

theorem test_pingrp_ill_formed :
    (after (grouped [0x00010000, 0x01C00100]) (.pingrp 0)).map (fun t => (t.status, t.pins, t.log))
      = some (0x00000053, [], []) := by decide +kernel

theorem test_gpiodir :
    (after live (.gpiodir 3 4 .output)).map (fun t => (t.pin 3 4, t.log))
      = some (⟨0, .none, 0, .output, .low⟩, [.gpioDir 3 4 .output]) := by decide +kernel

theorem test_gpiodir_out_of_range :
    (after live (.gpiodir 5 0 .output)).map (fun t => (t.status, t.log)) = some (0x00000053, []) := by decide +kernel

theorem test_gpiowr_on_input :
    (after live (.gpiowr 1 2 .high)).map (fun t => (t.pin 1 2).level) = some .high := by decide +kernel

theorem test_gpiowr_out_of_range :
    (after live (.gpiowr 0 32 .high)).map (fun t => t.status) = some 0x00000053 := by decide +kernel

theorem test_busrd_reference :
    (after live.withReference (.busrd 0x20 0xED 0)).map (fun t => (t.cap0, t.capValid0, t.capValid1, t.log))
      = some (0x80, true, false, [.busRd 0x20 0xED (.ok 0x80)]) := by decide +kernel

theorem test_busrd_err :
    (after (asking [.err 0]) (.busrd 0x20 0xED 0)).map (fun t => (t.status, t.capValid0, t.log))
      = some (0x00000013, false, [.busRd 0x20 0xED .err]) := by decide +kernel

theorem test_buswr_reference :
    (after live.withReference (.buswr 0x20 0x10 0x5A)).map (fun t => (t.pmicReg 0x10, t.log))
      = some (0x5A, [.busWr 0x20 0x10 0x5A .ok]) := by decide +kernel

theorem test_buswr_id_register_stuck :
    (after live.withReference (.buswr 0x20 0xED 0)).map (fun t => (t.pmicReg 0xED, t.pc)) = some (0x80, 1) := by
  decide +kernel

theorem test_idchk_match :
    (after (captured 0x80 0x9F) (.idchk 0x809)).map (fun t => (t.chipName, t.chipVer, t.pc)) = some (0x809, 0xF, 1) := by
  decide +kernel

theorem test_idchk_mismatch :
    (after (captured 0x80 0xA0) (.idchk 0x809)).map (fun t => t.status) = some 0x080A0023 := by decide +kernel

theorem test_lanesel_ok :
    (after live.withReference (.lanesel 2 1)).map (fun t => (t.modeOf 2, t.laneTaken 2, t.laneTaken 1, t.log))
      = some (1, true, false, [.laneSel 2 1 .ok]) := by decide +kernel

theorem test_lanesel_reselect_before_err :
    (after { asking [.err 0] with laneSel := 1 } (.lanesel 0 0)).map (fun t => (t.status, t.log))
      = some (0x00000093, []) := by decide +kernel

theorem test_domset_any_id :
    (after live.withReference (.domset 200 .v3_3)).map (fun t => (t.levelOf 200, t.domTaken 200, t.pc))
      = some (.v3_3, true, 1) := by decide +kernel

theorem test_domset_err :
    (after (asking [.err 0]) (.domset 0 .v3_3)).map (fun t => (t.status, t.domTaken 0, t.log))
      = some (0x00000033, false, [.domSet 0 .v3_3 .err]) := by decide +kernel

theorem test_end : (after live .endPlan).map (fun t => (t.status, t.done, t.ok)) = some (0x00000002, true, true) := by
  decide +kernel

theorem test_overrun :
    (nextOf (step { live with planLen := 1, pc := 1 })).map (fun t => t.status) = some 0x00000173 := by decide +kernel

theorem test_decode_before_alignment :
    (nextOf (step (holding 0x00000101 0x00001002 0))).map (fun t => t.status) = some 0x00000053 := by decide +kernel

theorem test_fetch_word_runs_its_instruction :
    (nextOf (step (State.reset.withFetchWord 32 0x0000000F))).map (fun t => t.status) = some 0x00000002 := by
  decide +kernel

/-! ## The assembler (R97, R98; section 2.1) -/

theorem test_assemble_text :
    assembled "mwr 0x1000, 0x00F0, 0x0F5A" = .ok [.mwr 0x1000 0x00F0 0x0F5A]
      ∧ assembled "lanesel 2, pcie2" = .ok [.lanesel 2 1] ∧ assembled "pingrp pcie2" = .ok [.pingrp 3] :=
  ⟨rfl, rfl, rfl⟩

/-- R97: parameters by name. -/
theorem test_assemble_parameters :
    assembled "busrd P_PMIC_ADDR, PMIC_ID_HI_REG, 0" = .ok [.busrd 0x20 0xED 0]
      ∧ assembled "idchk PMIC_EXPECTED_NAME" = .ok [.idchk 0x809]
      ∧ assembled "buswr P_PMIC_ADDR, P_TRIM[3].reg, P_TRIM[3].value" = .ok [.buswr 0x20 0x13 0xA3]
      ∧ assembled "gpiodir P_CLKREQ_A, out" = .ok [.gpiodir 3 4 .output]
      ∧ assembled "wr32 0, P_PIN_GROUPS[1][1]" = .ok [.wr32 0 0x00420201] := ⟨rfl, rfl, rfl, rfl, rfl⟩

/-- Names that are malformed, or that name no number (log 21). -/
theorem test_assemble_refuses_names :
    assembled "buswr P_PMIC_ADDR, P_TRIM[].reg, 0" = .error .unknownOperand
      ∧ assembled "buswr P_PMIC_ADDR[3].x, 0, 0" = .error .unknownOperand
      ∧ assembled "wr32 P_REGKIND, 0" = .error .unknownOperand := ⟨rfl, rfl, rfl⟩

/-- A clock-request pin's name stands for a bank and a pin and nowhere else (R169; log 21). -/
theorem test_assemble_refuses_pin_name_elsewhere :
    assembled "wr32 P_CLKREQ_A" = .error .unknownOperand ∧ assembled "busrd P_CLKREQ_A, 0" = .error .unknownOperand
      ∧ assembled "gpio_out_high P_CLKREQ_B" = .ok [.gpiodir 3 5 .output, .gpiowr 3 5 .high] := ⟨rfl, rfl, rfl⟩

theorem test_assemble_pseudo :
    assemble (.identify 0x20 0x809) = .ok [.busrd 0x20 0xED 0, .busrd 0x20 0xEE 1, .idchk 0x809]
      ∧ assemble (.gpioOutLow 3 4) = .ok [.gpiodir 3 4 .output, .gpiowr 3 4 .low]
      ∧ assemble (.mwrField 0x1000 15 12 3) = .ok [.mwr 0x1000 0xF000 0x3000] := ⟨rfl, rfl, rfl⟩

theorem test_assemble_errors :
    assemble (.mwrField 0x1000 3 0 16) = .error .badField ∧ assemble (.mwrField 0x1000 3 4 0) = .error .badField
      ∧ assemble (.busrd 0x80 0xED 0) = .error .doesNotFit ∧ assemble (.mwr 0x1000 0x10000 0) = .error .doesNotFit
      ∧ assemble (.buswr 0x20 0x10 0x100) = .error .doesNotFit ∧ assemble .rmw = .error .rmwRefused :=
  ⟨rfl, rfl, rfl, rfl, rfl, rfl⟩

/-! ## Admission (R206 to R217) -/

theorem test_board_plan_is_admitted :
    State.reset.admitted = true ∧ boardConstraints State.reset.cfg = true ∧ paramsLegal State.reset.cfg = true := by
  decide +kernel

theorem test_plan_without_end_is_refused :
    admission State.reset.cfg ((boardPlan State.reset.cfg).dropLast.map some) = some (.wellformed, 38) := by
  decide +kernel

/-- R215: at most 255 commands. -/
theorem test_plan_of_256_commands_is_refused :
    chkWellformed State.reset.cfg (List.replicate 255 (some (.wr32 0 0)) ++ [some .endPlan]) = some 255
      ∧ chkWellformed State.reset.cfg (List.replicate 254 (some (.wr32 0 0)) ++ [some .endPlan]) = none := by
  decide +kernel

/-! ## Witnesses: the hypotheses of the statements are met -/

theorem test_witness_DecodeOfEncodedInstruction :
    Instr.wf (.lanesel 255 2) = true ∧ Instr.wf (.mwr 0xFFFFFFFF 0xFFFF 0xFFFF) = true := by decide

theorem test_witness_EveryCommandHasOneEncoding : decodeCommand 0x00F00F5A0000100000000001 = .ok (.mwr 0x1000 0x00F0 0x0F5A) :=
  rfl

theorem test_witness_PlanRomHoldsTheLoadedPlan :
    (boardPlan State.reset.cfg).length ≤ 255 ∧ (∀ i ∈ boardPlan State.reset.cfg, i.wf = true)
      ∧ (List.replicate 255 Instr.endPlan).length ≤ 255 ∧ 255 < (List.replicate 256 Instr.endPlan).length := by
  decide +kernel

theorem test_witness_StepRunsDecodedInstruction :
    live.st = .run ∧ live.pc < live.planLen ∧ decode live.fetch = .ok (.domset 0 .v3_3) ∧ live.host = []
      ∧ State.host { live with host := [.proceed] } = [.proceed] := ⟨rfl, by decide, rfl, rfl, rfl⟩

theorem test_witness_FetchReadsThreeWordsOrOverruns :
    Running live ∧ live.pc.toNat < live.planLen.toNat
      ∧ Running { live with pc := 40 } ∧ live.planLen.toNat ≤ (40 : Byte).toNat := ⟨⟨rfl, rfl⟩, by decide, ⟨rfl, rfl⟩, by decide⟩

theorem test_witness_UndecodableCommandIsIllegal :
    (Running (holding 0x0F 0 0) ∧ (holding 0x0F 0 0).pc < (holding 0x0F 0 0).planLen
      ∧ (holding 0x0F 0 0).fetch = bytesOfCommand 0x0F ∧ decodeCommand 0x0F = .ok .endPlan)
    ∧ Running (holding 0x10F 0 0) ∧ (holding 0x10F 0 0).pc < (holding 0x10F 0 0).planLen
      ∧ (holding 0x10F 0 0).fetch = bytesOfCommand 0x10F ∧ ∀ i, decodeCommand 0x10F ≠ .ok i :=
  ⟨⟨⟨rfl, rfl⟩, by decide, by decide +kernel, rfl⟩, ⟨rfl, rfl⟩, by decide, by decide +kernel, fun i h => by
    rw [show decodeCommand 0x10F = .error .reservedBits from rfl] at h; cases h⟩

/-- The first and last opcode of each reserved range. -/
theorem test_witness_ReservedOpcodesAreIllegal :
    Running (holding 0xFF 0 0) ∧
    [(0x00 : Word), 0x0B, 0x0E, 0x10, 0xFF].all (fun op =>
      decide ((holding op 0 0).pc < (holding op 0 0).planLen)
        && ((holding op 0 0).romByte (12 * (holding op 0 0).pc.toNat)).toNat == op.toNat
        && (op.toNat == 0 || (decide (0x0B ≤ op.toNat) && decide (op.toNat ≤ 0x0E))
          || (decide (0x10 ≤ op.toNat) && decide (op.toNat ≤ 0xFF)))) = true :=
  ⟨⟨rfl, rfl⟩, by decide +kernel⟩

theorem test_witness_TerminalStatesAreFinal :
    goes (step { live with st := .doneOk, host := [.reset] }) = true
      ∧ goes (step { live with st := .doneFail, host := [.reset] }) = true ∧ Running live
      ∧ State.reset.st = .idle ∧ State.reset.launched = true
      ∧ goes (step { live with st := .doneOk, host := [.launch drawn] }) = true :=
  ⟨by decide, by decide, ⟨rfl, rfl⟩, rfl, rfl, by decide +kernel⟩

theorem reset_block : BlockAtReset State.reset := ⟨rfl, rfl, rfl, rfl, rfl, rfl, rfl, rfl, rfl, rfl⟩

theorem test_witness_StartMovesIdleToRun :
    IdleFresh { State.reset with host := [.start 7] } ∧ State.st { State.reset with host := [.start 7] } = .idle
      ∧ State.launched { State.reset with host := [.start 7] } = true :=
  ⟨fun _ => reset_block, rfl, rfl⟩

theorem test_witness_OnlyResetReturnsToIdle :
    live.st ≠ .idle ∧ State.host { live with host := [.start 0] } = [.start 0]
      ∧ (nextOf (step { live with host := [.reset] })).map (fun t => (t.st, t.launched)) = some (.idle, false) := by
  decide +kernel

theorem test_witness_BlockResetLeavesExternalState :
    State.host { live with host := [.reset] } = [.reset] ∧ State.host { live with host := [.launch drawn] } = [.launch drawn]
      ∧ regKindOf live.cfg 0x20000 = .masked ∧ regKindOf live.cfg 0x10004 = .plain := ⟨rfl, rfl, by decide, by decide⟩

/-- R202: a launch draws the cells that exist (0x20002 is no byte of the Masked register at 0x20000) and readies the block. -/
theorem test_launch :
    (nextOf (step { live with st := .doneOk, mem := [(0x10000, 1)], host := [.launch drawn] })).map
        (fun t => (t.st, t.launched, t.mem, t.pmicReg 0xED))
      = some (.idle, true, [(0x20000, 0x34)], 0x80) := by decide +kernel

/-- R222: after a block reset in Idle a start is accepted, and after one that abandons a run it is refused. -/
theorem test_second_run_needs_a_launch :
    goes (step { State.reset.blockReset with host := [.start 0] }) = true
      ∧ step { live.blockReset with host := [.start 0] } = .refused .secondRun := ⟨by decide +kernel, rfl⟩

theorem test_witness_StatusWordFields :
    State.host { live with host := [.writeStatus 5] } = [.writeStatus 5] := rfl

theorem test_witness_MaskedStoreTouchesOnlyMaskedBits :
    regKindOf (cells .masked []).cfg 0x1000 = .masked ∧ 0 < 16 ∧ 15 < 16 := by decide +kernel

/-- The three kinds of register, and the highest aligned address. -/
theorem test_witness_MwrStoresComposedWord :
    (0x1000 : Word).toNat % 4 = 0 ∧ (0xFFFFFFFC : Word).toNat % 4 = 0
      ∧ regKindOf (cells .masked []).cfg 0x1000 = .masked ∧ regKindOf (cells .plain []).cfg 0x1000 = .plain
      ∧ regKindOf (cells .plain []).cfg 0xFFFFFFFC = .unmodelled := by decide +kernel

theorem test_witness_Wr32StoresData : (0 : Word).toNat % 4 = 0 ∧ (0x1000 : Word).toNat % 4 = 0 := by decide

theorem test_witness_MisalignedStoreFaults :
    (1 : Word).toNat % 4 ≠ 0 ∧ (2 : Word).toNat % 4 ≠ 0 ∧ (0xFFFFFFFF : Word).toNat % 4 ≠ 0 := by decide

theorem test_witness_ContractCompositionAgreement :
    BitVec.extractLsb' 16 16 (0x0000FFFF : Word) = 0
      ∧ BitVec.getLsbD (0x000100AA : Word) (16 + 0) = true ∧ BitVec.getLsbD (0x000100FF : Word) (16 + 0) = true
      ∧ BitVec.getLsbD (0x000100FF : Word) 0 = true := by decide

/-- A group at the top of every range, and the empty group. -/
theorem test_witness_PingrpAppliesGroupInOrder :
    (grouped [0x01A7041F]).cfg.pinGroups[(0 : Byte).toNat]? = some [⟨0x1F, 0x04, 0xA7, 0x01⟩]
      ∧ [(⟨0x1F, 0x04, 0xA7, 0x01⟩ : StoredWord)].map (fun w => w.b3 ++ w.b2 ++ w.b1 ++ w.b0) = [(0x01A7041F : Word)]
      ∧ descWf (grouped []).cfg 0x01A7041F = true
      ∧ (grouped []).cfg.pinGroups[(4 : Byte).toNat]? = some [] := by decide +kernel

/-- The first id out of range, and one group for each way a descriptor is ill-formed (section 2.3). -/
theorem test_witness_PingrpNeverAppliesPartially :
    live.cfg.pinGroups.length ≤ (5 : Byte).toNat
      ∧ BitVec.extractLsb' 26 6 (0x04000100 : Word) ≠ 0 ∧ BitVec.extractLsb' 20 2 (0x00300100 : Word) = 3
      ∧ live.cfg.driveLevels < (BitVec.extractLsb' 22 4 (0x01C00100 : Word)).toNat
      ∧ live.cfg.numBanks ≤ (BitVec.extractLsb' 8 8 (0x00000500 : Word)).toNat
      ∧ live.cfg.pinsPerBank ≤ (BitVec.extractLsb' 0 8 (0x00000020 : Word)).toNat
      ∧ live.cfg.numFuncs ≤ (BitVec.extractLsb' 16 4 (0x00080000 : Word)).toNat
      ∧ (0x00080000 : Word) ∈ (([⟨0x03, 0x01, 0x41, 0x00⟩, ⟨0, 0, 0x08, 0⟩] : List StoredWord).map
        (fun w => w.b3 ++ w.b2 ++ w.b1 ++ w.b0) : List Word) := by decide +kernel

theorem test_witness_GpiodirSetsOnePinsDirection :
    (4 : Byte).toNat < live.cfg.numBanks ∧ (31 : Byte).toNat < live.cfg.pinsPerBank := by decide

theorem test_witness_GpiowrSetsOnePinsLevel :
    (0 : Byte).toNat < live.cfg.numBanks ∧ (0 : Byte).toNat < live.cfg.pinsPerBank := by decide

theorem test_witness_GpioOutOfRangeIsIllegal :
    live.cfg.numBanks ≤ (5 : Byte).toNat ∧ live.cfg.pinsPerBank ≤ (32 : Byte).toNat := by decide

theorem test_witness_BusrdCapturesTheByte :
    (asking [.ok 0x80]).answerTo (.busRead (asking [.ok 0x80]).cfg.bus 0x20 0xED) = .ok 0x80 := rfl

theorem test_witness_BuswrWritesTheRegister :
    (asking [.ok 0]).answerTo (.busWrite (asking [.ok 0]).cfg.bus 0x20 0x10 0x5A) = .ok 0
      ∧ (0x20 : BitVec 7) = live.cfg.pmicAddr ∧ (0x21 : BitVec 7) ≠ live.cfg.pmicAddr := ⟨rfl, rfl, by decide⟩

theorem test_witness_BusFailureIsFatal :
    (asking [.err 7]).answerTo (.busRead (asking [.err 7]).cfg.bus 0x20 0xED) = .err 7
      ∧ (asking [.err 7]).answerTo (.busWrite (asking [.err 7]).cfg.bus 0x20 0x11 0x3C) = .err 7 := ⟨rfl, rfl⟩

theorem test_witness_IdentificationRegistersAreReadOnly :
    (asking [.ok 0]).answerTo (.busWrite (asking [.ok 0]).cfg.bus live.cfg.pmicAddr 0xEE 0) = .ok 0
      ∧ some (Instr.buswr live.cfg.pmicAddr 0xED 0) ∈ [none, some (Instr.buswr live.cfg.pmicAddr 0xED 0)] :=
  ⟨rfl, by decide⟩

theorem test_witness_IdchkMatchContinues :
    (captured 0x80 0x9F).capValid 0 = true ∧ (captured 0x80 0x9F).capValid 1 = true
      ∧ (0x809 : BitVec 12).toNat
        = ((captured 0x80 0x9F).cap 0).toNat * 16 + ((captured 0x80 0x9F).cap 1).toNat / 16 := by decide +kernel

theorem test_witness_IdchkFaults :
    State.capValid { captured 0x80 0x9F with capValid0 := false } 0 = false
      ∧ State.capValid { captured 0x80 0x9F with capValid1 := false } 1 = false
      ∧ (captured 0x80 0xA0).capValid 0 = true ∧ (captured 0x80 0xA0).capValid 1 = true
      ∧ (0x809 : BitVec 12).toNat
        ≠ ((captured 0x80 0xA0).cap 0).toNat * 16 + ((captured 0x80 0xA0).cap 1).toNat / 16 := by decide +kernel

theorem test_witness_ReferenceBackendAnswersOk :
    live.withReference.answers = [] ∧ live.withReference.backend = .reference ∧ live.withReference.st = .run
      ∧ (nextOf (exec (.pingrp 5) live.withReference)).map (fun t => t.st) = some .doneFail := by decide +kernel

theorem test_witness_LaneselSelectsTheLane :
    (2 : LaneMode) ≠ 3 ∧ (2 : Byte).toNat < live.cfg.numLanes ∧ live.laneTaken 2 = false
      ∧ (asking [.ok 0]).answerTo (.laneSelect 2 2) = .ok 0 := ⟨by decide, by decide, by decide +kernel, rfl⟩

theorem test_witness_LaneselFaultsInOrder :
    live.cfg.numLanes ≤ (3 : Byte).toNat ∧ (2 : Byte).toNat < live.cfg.numLanes
      ∧ State.laneTaken { live with laneSel := 4 } 2 = true ∧ live.laneTaken 2 = false
      ∧ (asking [.err 3]).answerTo (.laneSelect 2 2) = .err 3 :=
  ⟨by decide, by decide, by decide +kernel, by decide +kernel, rfl⟩

theorem test_witness_DomsetSetsTheDomain :
    live.domTaken 255 = false ∧ (asking [.ok 0]).answerTo (.domainSet 255 .v3_3) = .ok 0 := ⟨by decide +kernel, rfl⟩

theorem test_witness_DomsetFaultsInOrder :
    State.domTaken { live with domSet := 1 } 0 = true ∧ live.domTaken 0 = false
      ∧ (asking [.err 1]).answerTo (.domainSet 0 .v3_3) = .err 1 := ⟨by decide +kernel, by decide +kernel, rfl⟩

theorem test_witness_EndTerminatesWithSuccess :
    (Running (holding 0x0F 0 0) ∧ (holding 0x0F 0 0).pc < (holding 0x0F 0 0).planLen
      ∧ (holding 0x0F 0 0).fetch = bytesOfCommand 0x0F)
    ∧ Running (holding 0x0F 0 1) ∧ (holding 0x0F 0 1).pc < (holding 0x0F 0 1).planLen
      ∧ (holding 0x0F 0 1).fetch = bytesOfCommand 0x00000001000000000000000F
      ∧ BitVec.extractLsb' 0 8 (0x00000001000000000000000F : Command) = 0x0F :=
  ⟨⟨⟨rfl, rfl⟩, by decide, by decide +kernel⟩, ⟨rfl, rfl⟩, by decide, by decide +kernel, by decide⟩

theorem test_witness_PcAdvancesOnlyOnCompletion :
    live.st = .run ∧ goes (exec (.gpiodir 0 0 .output) live) = true ∧ goes (exec (.gpiodir 5 0 .output) live) = true
      ∧ goes (exec .endPlan live) = true ∧ goes (step live) = true ∧ ¬ ResetNext live := by
  refine ⟨?_, ?_, ?_, ?_, ?_, ?_⟩
  iterate 5 decide +kernel
  simp [ResetNext, live, State.reset]

/-- A fault of the fetch, of decoding, of a check, of the primitive's answer, and of IDCHK's own result. -/
theorem test_witness_FaultsArePrecise :
    (nextOf (step { live with pc := 40 })).map (fun t => (t.st, t.cause)) = some (.doneFail, 7)
      ∧ (nextOf (step (holding 0x10F 0 0))).map (fun t => (t.st, t.cause)) = some (.doneFail, 5)
      ∧     (nextOf (exec (.mwr 1 0 0) live)).map (fun t => (t.st, t.cause)) = some (.doneFail, 6)
      ∧ (nextOf (exec (.lanesel 0 0) (asking [.err 3]))).map (fun t => (t.st, t.cause)) = some (.doneFail, 4)
      ∧ (nextOf (exec (.idchk 0) (captured 0x80 0x9F))).map (fun t => (t.st, t.cause)) = some (.doneFail, 2) := by
  decide +kernel

theorem test_witness_LogGrowsByOneEventPerCall :
    live.st = .run ∧ goes (exec (.idchk 0x809) (captured 0x80 0x9F)) = true
      ∧ (nextOf (exec (.domset 0 .v1_8) (asking [.ok 0]))).map (fun t => t.st) = some .run := by decide +kernel

theorem test_witness_ConfigurationIsImmutable : goes (step live) = true := by decide +kernel

theorem test_witness_StoresAndPinsIgnoreTheOracle :
    goes (exec (.mwr 0 0 0) live) = true ∧ goes (exec (.gpiowr 0 0 .high) live) = true := by decide +kernel

theorem test_witness_InvalidCaptureIsNeverObserved :
    live.capValid0 = false ∧ live.capValid1 = false ∧ goes (exec (.idchk 0x809) live) = true
      ∧ (nextOf (exec (.busrd 0x20 0xED 0) (asking [.ok 1]))).map (fun t => t.capValid0) = some true
      ∧ (nextOf (exec (.busrd 0x20 0xEE 1) (asking [.ok 1]))).map (fun t => t.capValid1) = some true := by decide +kernel

theorem test_witness_SuccessComesOnlyFromEnd :
    (nextOf (step (holding 0x0F 0 0))).map (fun t => t.st) = some .doneOk := by decide +kernel

theorem test_witness_StepKeepsCanonicalTables : Canonical live ∧ goes (step live) = true := by
  refine ⟨⟨rfl, rfl, rfl, rfl, rfl, ?_⟩, ?_⟩ <;> decide +kernel

theorem test_witness_StepKeepsMirrorInRange : MirrorInRange live ∧ goes (step live) = true :=
  ⟨⟨by simp [live, State.reset], by simp [live, State.reset], by simp [live, State.reset], by simp [live, State.reset],
    by simp [live, State.reset]⟩, by decide +kernel⟩

/-- In Run, and in DoneFail before a reset. -/
theorem test_witness_StepKeepsCauseLegal :
    CauseLegal live ∧ goes (step live) = true ∧ CauseLegal { live with st := .doneFail, cause := 10, host := [.reset] }
      ∧ goes (step { live with st := .doneFail, cause := 10, host := [.reset] }) = true :=
  ⟨⟨by decide, by decide⟩, by decide +kernel, ⟨by decide, by decide⟩, by decide +kernel⟩

theorem test_witness_StepKeepsIdleFresh :
    IdleFresh { State.reset with host := [.start 0] } ∧ goes (step { State.reset with host := [.start 0] }) = true :=
  ⟨fun _ => reset_block, by decide⟩

/-- At the last command of the plan, and past it. -/
theorem test_witness_StepKeepsPcInPlan :
    PcInPlan { live with pc := 39 } ∧ goes (step { live with pc := 39 }) = true
      ∧ PcInPlan { live with pc := 40 } ∧ goes (step { live with pc := 40 }) = true := by
  refine ⟨?_, ?_, ?_, ?_⟩ <;> first | (unfold PcInPlan; decide) | decide +kernel

theorem live_one_shot : OneShot live := by
  refine ⟨fun l => ?_, fun d => ?_, fun l => ?_, fun d => ?_, fun _ => ?_⟩ <;>
    simp [live, State.reset, State.laneTaken, State.domTaken]

theorem live_mirror_agrees : MirrorAgrees live := by
  refine ⟨fun l m h => ?_, fun d v h => ?_, fun i h => ?_⟩
  · simp [live, State.reset] at h
  · simp [live, State.reset] at h
  · simp [live, State.reset, State.capValid] at h

theorem test_witness_StepKeepsOneShot : OneShot live ∧ goes (step live) = true := ⟨live_one_shot, by decide +kernel⟩

theorem test_witness_StepKeepsMirrorAgreement : OneShot live ∧ MirrorAgrees live ∧ goes (step live) = true :=
  ⟨live_one_shot, live_mirror_agrees, by decide +kernel⟩

theorem test_witness_CanonicalTablesAreEqualData :
    sparseWf Config.unlistedByte [(5, 1), (6, 2)] = true ∧ sparseWf Config.unlistedLevel [(3, VLevel.v3_3)] = true
      ∧ ∀ k, sparseGet Config.unlistedLevel [(3, VLevel.v3_3)] k
        = sparseGet Config.unlistedLevel [(3, VLevel.v3_3)] k := ⟨by decide, by decide, fun _ => rfl⟩

theorem test_witness_EveryRunEnds : Running live ∧ Running { live with pc := 255 } := ⟨⟨rfl, rfl⟩, rfl, rfl⟩

/-- An admitted plan that a failing domain ends, one at its last command, and one about to start. -/
theorem test_witness_AdmittedPlanRaisesNoStaticFault :
    AdmittedRun (asking [.err 0])
      ∧ (nextOf (step (asking [.err 0]))).map (fun t => (t.st, t.cause)) = some (.doneFail, 3)
      ∧ AdmittedRun { live with pc := 39 } ∧ goes (step { live with pc := 39 }) = true
      ∧ AdmittedRun { State.reset with host := [.start 0] } ∧ goes (step { State.reset with host := [.start 0] }) = true :=
  ⟨⟨by decide +kernel, (nomatch ·), fun _ => by decide +kernel⟩, by decide +kernel,
    ⟨by decide +kernel, (nomatch ·), fun _ => by decide +kernel⟩, by decide +kernel,
    ⟨by decide +kernel, fun _ => reset_block, (nomatch ·)⟩, by decide +kernel⟩

theorem test_witness_UnadmittedPlanIsRefusedARun :
    State.admitted { State.reset with planLen := 39 } = false ∧ State.reset.admitted = true := by decide +kernel

theorem test_witness_BoardPlanIsAdmitted :
    paramsInRange State.reset.cfg = true ∧ boardConstraints State.reset.cfg = true := by decide +kernel

theorem test_witness_MwrFieldExpansion :
    0x1000 < 2 ^ 32 ∧ 0 ≤ 15 ∧ 15 ≤ 15 ∧ 0xBEEF < 2 ^ (15 - 0 + 1) ∧ 0xFFFFFFFF < 2 ^ 32 ∧ 7 ≤ 7 ∧ 1 < 2 ^ (7 - 7 + 1) := by
  decide

end Sys2Proof.Tests
end

section
/-! Facts about commands and steps that the invariants of 10_state.md share: how to show a predicate kept by every step, and
what a command does to the configuration, `pc`, `st`, the log and each table of the mirror. -/

namespace Sys2Proof.Machine

/-! ## Invariants of a step -/

/-- What makes a predicate an invariant: it survives a change of the host's inputs, a block reset, a launch, a start, a fault
of the block's own and every effect of a command in Run within the plan. -/
structure KeptByStep (P : State → Prop) : Prop where
  host : ∀ {s : State} (inputs : List HostInput), P s → P { s with host := inputs }
  reset : ∀ {s : State}, P s → P s.blockReset
  launch : ∀ {s : State} (x : ExternalDraw), P s → P (s.launch x)
  start : ∀ {s : State}, s.st = .idle → P s → P { s with st := .run }
  raise : ∀ {s : State} {c : Cause}, c ≠ .none → s.st = .run → P s → P (s.raise c)
  effect : ∀ {s t : State} {i : Instr}, s.st = .run → s.pc < s.planLen → Effect s i t → P s → P t

/-- The one case analysis of a step that the invariants rest on (R155 to R157, R162, R163, R196, R202). -/
theorem KeptByStep.step {P : State → Prop} (hP : KeptByStep P) {s t : State} (h : step s = .next t) (hs : P s) : P t := by
  obtain ⟨rest, -, hreset | hlaunch | hstart | ⟨-, hrun, u, rfl, hfetch⟩⟩ := step_cases h
  · obtain ⟨-, rfl⟩ := hreset
    exact hP.reset (hP.host rest hs)
  · obtain ⟨x, -, rfl⟩ := hlaunch
    exact hP.launch x (hP.host rest hs)
  · obtain ⟨-, hidle, -, rfl⟩ := hstart
    exact hP.start (s := { s with host := rest }) hidle (hP.host rest hs)
  · have hu := hP.host rest hs
    obtain ⟨-, rfl⟩ | ⟨-, -, rfl⟩ | ⟨hpc, i, -, hi⟩ := hfetch
    · exact hP.raise (s := { s with host := rest }) (by decide) hrun hu
    · exact hP.raise (s := { s with host := rest }) (by decide) hrun hu
    · exact hP.effect (s := { s with host := rest }) hrun hpc (.of_exec hi) hu

/-! ## Causes -/

/-- R177: the codes of the faults are 1 to 10. -/
theorem Cause.code_range {c : Cause} (h : c ≠ .none) : 1 ≤ c.code.toNat ∧ c.code.toNat ≤ 10 := by
  revert h
  cases c <;> decide

/-- The causes of the checks before a command acts are faults. -/
theorem Cause.ne_none_of_check {c : Cause} (h : c.code.toNat ∈ [5, 6, 8, 9, 10]) : c ≠ .none := by
  rintro rfl
  exact absurd h (by decide)

/-! ## What a command does to the block -/

section
variable {s t : State} {i : Instr}

/-- R42: no command writes the configuration. -/
theorem Effect.config (h : Effect s i t) : t.planRom = s.planRom ∧ t.planLen = s.planLen ∧ t.cfg = s.cfg := by
  cases h <;> simp

/-- R158, R165: a command leaves `pc` or advances it by one. -/
theorem Effect.pc_cases (h : Effect s i t) : t.pc = s.pc ∨ t.pc = s.pc + 1 := by
  cases h <;> simp

/-- R158, R161, R165: a command faults with a cause of R177, or it leaves `cause` and stays in its state or ends in DoneOk. -/
theorem Effect.st_cases (h : Effect s i t) :
    (t.st = .doneFail ∧ ∃ c : Cause, c ≠ .none ∧ t.cause = c.code)
    ∨ (t.cause = s.cause ∧ (t.st = s.st ∨ t.st = .doneOk)) := by
  cases h with
  | check _ c hc => exact .inl ⟨rfl, c, Cause.ne_none_of_check hc, rfl⟩
  | domsetErr => exact .inl ⟨rfl, .domainError, by decide, rfl⟩
  | busrdErr => exact .inl ⟨rfl, .busError, by decide, rfl⟩
  | buswrErr => exact .inl ⟨rfl, .busError, by decide, rfl⟩
  | idchkMismatch => exact .inl ⟨rfl, .idMismatch, by decide, rfl⟩
  | laneselErr => exact .inl ⟨rfl, .laneError, by decide, rfl⟩
  | endPlan => exact .inr ⟨rfl, .inr rfl⟩
  | _ => exact .inr (by simp)

/-- R39: a command logs nothing and makes no call, which is so for a fault of its checks, IDCHK and END; or it logs one event,
for at most one call. -/
theorem Effect.log_cases (h : Effect s i t) :
    (t.log = s.log ∧ t.calls = s.calls ∧ (t.st = .doneFail ∨ (∃ n, i = .idchk n) ∨ i = .endPlan))
    ∨ ((∃ e, t.log = s.log ++ [e]) ∧ (t.calls = s.calls ∨ t.calls = s.calls + 1)
      ∧ (∀ n, i ≠ .idchk n) ∧ i ≠ .endPlan) := by
  cases h with
  | check => exact .inl ⟨rfl, rfl, .inl rfl⟩
  | idchkMatch n => exact .inl ⟨rfl, rfl, .inr (.inl ⟨n, rfl⟩)⟩
  | idchkMismatch => exact .inl ⟨rfl, rfl, .inl rfl⟩
  | endPlan => exact .inl ⟨rfl, rfl, .inr (.inr rfl)⟩
  | mwr | wr32 | pingrp | gpiodir | gpiowr => exact .inr ⟨by simp, by simp, nofun, nofun⟩
  | domsetOk | domsetErr | busrdOk | busrdErr | buswrOk | buswrErr | laneselOk | laneselErr =>
    exact .inr ⟨by simp, by simp, nofun, nofun⟩

/-! ## What a command does to the mirror -/

/-- Byte `a` lies in the cell of a Masked or of a Plain register (R33). -/
def InCell (cfg : Params) (a : Nat) : Prop :=
  ∃ addr : Word, aligned addr = true ∧ addr.toNat ≤ a
    ∧ ((regKindOf cfg addr = .masked ∧ a < addr.toNat + 2) ∨ (regKindOf cfg addr = .plain ∧ a < addr.toNat + 4))

/-- R55 to R57: a store lists bytes of the addressed register's cell only. -/
theorem mem_memWrite {addr w : Word} {e : Host.Cell} (ha : aligned addr = true) (h : e ∈ (s.memWrite addr w).mem) :
    InCell s.cfg e.1 ∨ e ∈ s.mem := by
  unfold State.memWrite at h
  cases hk : regKindOf s.cfg addr with
  | masked =>
    simp only [hk] at h
    exact (mem_setCell16 h).imp_left fun ⟨hlo, hhi⟩ => ⟨addr, ha, hlo, .inl ⟨hk, hhi⟩⟩
  | plain =>
    simp only [hk] at h
    exact (mem_setCell32 h).imp_left fun ⟨hlo, hhi⟩ => ⟨addr, ha, hlo, .inr ⟨hk, hhi⟩⟩
  | unmodelled =>
    simp only [hk] at h
    exact .inr h

/-- The bytes a launch may draw are those of the cells (R33, R200). -/
theorem inCell_of_cellByte {cfg : Params} {a : Nat} (h : cellByte cfg a = true) : InCell cfg a := by
  simp only [cellByte, Bool.and_eq_true, decide_eq_true_eq] at h
  obtain ⟨hlt, hk⟩ := h
  have hn : (BitVec.ofNat 32 (a - a % 4)).toNat = a - a % 4 := by rw [BitVec.toNat_ofNat]; omega
  refine ⟨BitVec.ofNat 32 (a - a % 4), ?_, by omega, ?_⟩
  · simp only [aligned, beq_iff_eq, ← BitVec.toNat_inj, BitVec.extractLsb'_toNat, hn]
    simp; omega
  · cases hr : regKindOf cfg (BitVec.ofNat 32 (a - a % 4)) with
    | masked =>
      simp only [hr, decide_eq_true_eq] at hk
      exact .inl ⟨rfl, by omega⟩
    | plain => exact .inr ⟨rfl, by omega⟩
    | unmodelled => simp [hr] at hk

theorem Effect.mem_mem (h : Effect s i t) {e : Host.Cell} (he : e ∈ t.mem) : InCell s.cfg e.1 ∨ e ∈ s.mem := by
  cases h with
  | mwr _ _ _ ha => exact mem_memWrite ha he
  | wr32 _ _ ha => exact mem_memWrite ha he
  | _ => exact .inr (by simpa using he)

/-- An entry of a table after a write has the written key or was there before. -/
theorem key_sparseSet {α : Type} [DecidableEq α] {d : α} {m : List (Nat × α)} {k n : Nat} {v : α} {e : Nat × α} (hk : k < n)
    (h : e ∈ sparseSet d m k v) : e.1 < n ∨ e ∈ m :=
  (mem_sparseSet d h).imp_left fun (he : e = (k, v)) => he ▸ hk

theorem Effect.mem_pmic (h : Effect s i t) {e : Host.Cell} (he : e ∈ t.pmic) : e.1 < 256 ∨ e ∈ s.pmic := by
  cases h with
  | buswrOk _ r =>
    simp only [State.pmicWritten, advance_pmic] at he
    split at he
    · exact key_sparseSet r.isLt he
    · exact .inr he
  | buswrErr _ r =>
    simp only [State.pmicDrawn, raise_pmic] at he
    split at he
    · exact key_sparseSet r.isLt he
    · exact .inr he
  | _ => exact .inr (by simpa using he)

theorem pinKey_lt (b p : Byte) : pinKey b p < 65536 := by
  unfold pinKey; omega

theorem Effect.mem_pins (h : Effect s i t) {e : Nat × Pin} (he : e ∈ t.pins) : e.1 < 65536 ∨ e ∈ s.pins := by
  cases h with
  | pingrp => exact mem_foldl_applyDesc he
  | gpiodir b p => exact key_sparseSet (pinKey_lt b p) he
  | gpiowr b p => exact key_sparseSet (pinKey_lt b p) he
  | _ => exact .inr (by simpa using he)

theorem Effect.mem_laneMode (h : Effect s i t) {e : Nat × LaneMode} (he : e ∈ t.laneMode) :
    e.1 < 256 ∨ e ∈ s.laneMode := by
  cases h with
  | laneselOk l => exact key_sparseSet l.isLt he
  | laneselErr l => exact key_sparseSet l.isLt he
  | _ => exact .inr (by simpa using he)

theorem Effect.mem_domLevel (h : Effect s i t) {e : Nat × VLevel} (he : e ∈ t.domLevel) :
    e.1 < 256 ∨ e ∈ s.domLevel := by
  cases h with
  | domsetOk d => exact key_sparseSet d.isLt he
  | domsetErr d => exact key_sparseSet d.isLt he
  | _ => exact .inr (by simpa using he)

end

end Sys2Proof.Machine
end

section
/-! The data of one capture replaced: what reads it, what it passes through, and that no command observes it while the
capture is invalid (10_state.md R21). -/

namespace Sys2Proof.Machine

/-! ## Two states that differ in the data of one capture -/

/-- `s` with the data of capture `idx` replaced by `x`, its valid bit left as it is. -/
def State.withCap (idx : BitVec 1) (x : Byte) (s : State) : State :=
  { s with cap0 := if idx = 0 then x else s.cap0, cap1 := if idx = 0 then s.cap1 else x }

section
variable (idx : BitVec 1) (x : Byte) (s : State)

/-! What reads no capture reads the same, and what writes no capture commutes with the replacement. -/

@[simp] theorem withCap_cfg : (s.withCap idx x).cfg = s.cfg := rfl
@[simp] theorem withCap_answerTo (c : Call) : (s.withCap idx x).answerTo c = s.answerTo c := rfl
@[simp] theorem withCap_laneTaken (l : Byte) : (s.withCap idx x).laneTaken l = s.laneTaken l := rfl
@[simp] theorem withCap_domTaken (d : Byte) : (s.withCap idx x).domTaken d = s.domTaken d := rfl
@[simp] theorem withCap_group (g : Byte) : (s.withCap idx x).group g = s.group g := rfl
@[simp] theorem withCap_pin (b p : Byte) : (s.withCap idx x).pin b p = s.pin b p := rfl
@[simp] theorem withCap_capValid (j : BitVec 1) : (s.withCap idx x).capValid j = s.capValid j := rfl

@[simp] theorem raise_withCap (c : Cause) : (s.withCap idx x).raise c = (s.raise c).withCap idx x := rfl
@[simp] theorem advance_withCap : (s.withCap idx x).advance = s.advance.withCap idx x := rfl
@[simp] theorem emit_withCap (e : Event) : (s.withCap idx x).emit e = (s.emit e).withCap idx x := rfl
@[simp] theorem asked_withCap : (s.withCap idx x).asked = s.asked.withCap idx x := rfl
@[simp] theorem addLane_withCap (l : Byte) : (s.withCap idx x).addLane l = (s.addLane l).withCap idx x := rfl
@[simp] theorem addDom_withCap (d : Byte) : (s.withCap idx x).addDom d = (s.addDom d).withCap idx x := rfl
@[simp] theorem setMode_withCap (l : Byte) (m : LaneMode) :
    (s.withCap idx x).setMode l m = (s.setMode l m).withCap idx x := rfl
@[simp] theorem setLevel_withCap (d : Byte) (v : VLevel) :
    (s.withCap idx x).setLevel d v = (s.setLevel d v).withCap idx x := rfl
@[simp] theorem memWrite_withCap (a w : Word) : (s.withCap idx x).memWrite a w = (s.memWrite a w).withCap idx x := rfl
@[simp] theorem setPin_withCap (b p : Byte) (v : Pin) :
    (s.withCap idx x).setPin b p v = (s.setPin b p v).withCap idx x := rfl
@[simp] theorem applyDescs_withCap (ds : List Word) :
    (s.withCap idx x).applyDescs ds = (s.applyDescs ds).withCap idx x := rfl
@[simp] theorem pmicWritten_withCap (dev : BitVec 7) (r v : Byte) :
    (s.withCap idx x).pmicWritten dev r v = (s.pmicWritten dev r v).withCap idx x := rfl
@[simp] theorem pmicDrawn_withCap (dev : BitVec 7) (r v : Byte) :
    (s.withCap idx x).pmicDrawn dev r v = (s.pmicDrawn dev r v).withCap idx x := rfl

/-- Writing a capture leaves nothing of what replaced its data, and writing the other one leaves all of it. -/
theorem setCapture_withCap (b : Byte) (j : BitVec 1) :
    (s.withCap idx x).setCapture j b = (s.setCapture j b).withCap idx (if idx = j then b else x) := by
  obtain rfl | rfl := bit_cases idx <;> obtain rfl | rfl := bit_cases j <;> rfl

/-! The bodies of the commands that use no capture. -/

theorem storeWord_withCap (a w : Word) : (s.withCap idx x).storeWord a w = (s.storeWord a w).withCap idx x := by
  unfold State.storeWord
  split <;> simp

theorem domainSet_withCap (d : Byte) (v : VLevel) :
    (s.withCap idx x).domainSet d v = (s.domainSet d v).withCap idx x := by
  unfold State.domainSet State.domCall
  rw [withCap_domTaken, withCap_answerTo]
  split
  · simp
  · cases s.answerTo (.domainSet d v) <;> simp

theorem laneSelect_withCap (l : Byte) (m : LaneMode) :
    (s.withCap idx x).laneSelect l m = (s.laneSelect l m).withCap idx x := by
  unfold State.laneSelect State.laneCall
  rw [withCap_cfg, withCap_laneTaken, withCap_answerTo]
  split
  · simp
  · split
    · simp
    · cases s.answerTo (.laneSelect l m) <;> simp

theorem busWriteTo_withCap (dev : BitVec 7) (r d : Byte) :
    (s.withCap idx x).busWriteTo dev r d = (s.busWriteTo dev r d).withCap idx x := by
  unfold State.busWriteTo
  rw [withCap_cfg, withCap_answerTo]
  cases s.answerTo (.busWrite s.cfg.bus dev r d) <;> simp

theorem pinGroup_withCap (g : Byte) : (s.withCap idx x).pinGroup g = (s.pinGroup g).withCap idx x := by
  unfold State.pinGroup
  rw [withCap_group, withCap_cfg]
  cases s.group g with
  | none => simp
  | some ds => dsimp only; split <;> simp

theorem gpio_withCap (b p : Byte) (e : Event) (f : Pin → Pin) :
    (s.withCap idx x).gpio b p e f = (s.gpio b p e f).withCap idx x := by
  unfold State.gpio
  rw [withCap_cfg, withCap_pin]
  split <;> simp

end

variable {idx : BitVec 1} {s t : State} {i : Instr}

/-- Only BUSRD writes a valid bit (R21, R130). -/
theorem Effect.capValid_eq (h : Effect s i t) (hi : ∀ dev r j, i ≠ .busrd dev r j) : t.capValid idx = s.capValid idx := by
  cases h with
  | busrdOk dev r j => exact absurd rfl (hi dev r j)
  | endPlan => rfl
  | _ => simp

/-- R137: IDCHK reads no capture before it has tested both valid bits. -/
theorem identityCheck_of_invalid (n : BitVec 12) (h : s.capValid idx = false) :
    s.identityCheck n = s.raise .unwrittenCapture := by
  obtain ⟨-, e⟩ | ⟨h0, h1, -⟩ | ⟨h0, h1, -⟩ := identityCheck_cases n s
  · exact e
  all_goals obtain rfl | rfl := bit_cases idx <;> simp_all

/-- A command other than BUSRD leaves the data of an invalid capture alone, and does the same whatever it is. -/
theorem exec_withCap (x : Byte) (hi : ∀ dev r j, i ≠ .busrd dev r j) (hinv : s.capValid idx = false)
    (h : exec i s = .next t) : exec i (s.withCap idx x) = .next (t.withCap idx x) := by
  cases i with
  | busrd dev r j => exact absurd rfl (hi dev r j)
  | mwr | wr32 => cases h; rw [← storeWord_withCap]; rfl
  | domset => cases h; rw [← domainSet_withCap]; rfl
  | buswr => cases h; rw [← busWriteTo_withCap]; rfl
  | idchk n =>
    cases h
    rw [exec_idchk, identityCheck_of_invalid n hinv, identityCheck_of_invalid (s := s.withCap idx x) n hinv, raise_withCap]
  | lanesel => cases h; rw [← laneSelect_withCap]; rfl
  | pingrp => cases h; rw [← pinGroup_withCap]; rfl
  | gpiodir | gpiowr => cases h; rw [← gpio_withCap]; rfl
  | endPlan => cases h; rfl

/-- BUSRD leaves the same state whatever an invalid capture held, but for that data where it does not write it. -/
theorem busReadInto_withCap (x : Byte) (hinv : s.capValid idx = false) (dev : BitVec 7) (r : Byte) (j : BitVec 1) :
    ∃ y, (s.withCap idx x).busReadInto dev r j = (s.busReadInto dev r j).withCap idx y
      ∧ ((s.busReadInto dev r j).capValid idx = true → y = (s.busReadInto dev r j).cap idx) := by
  unfold State.busReadInto
  rw [withCap_cfg, withCap_answerTo]
  cases s.answerTo (.busRead s.cfg.bus dev r) with
  | ok b =>
    refine ⟨if idx = j then b else x, by simp [setCapture_withCap], fun hvalid => ?_⟩
    have hj : idx = j := by simpa [capValid_setCapture, hinv] using hvalid
    simp [cap_setCapture, hj]
  | err => exact ⟨x, rfl, by simp [hinv]⟩

/-- A command that meets an invalid capture does the same whatever its data, and what it leaves of the data is as invalid as
before or gone. -/
theorem exec_withCap_of_invalid (x : Byte) (hinv : s.capValid idx = false) (h : exec i s = .next t) :
    ∃ y, exec i (s.withCap idx x) = .next (t.withCap idx y) ∧ (t.capValid idx = true → y = t.cap idx) := by
  by_cases hi : ∃ dev r j, i = .busrd dev r j
  · obtain ⟨dev, r, j, rfl⟩ := hi
    cases h
    obtain ⟨y, hy, hval⟩ := busReadInto_withCap x hinv dev r j
    exact ⟨y, congrArg Host.Outcome.next hy, hval⟩
  · have hi' : ∀ dev r j, i ≠ .busrd dev r j := fun dev r j e => hi ⟨dev, r, j, e⟩
    have hinv' : t.capValid idx = false := ((Effect.of_exec h).capValid_eq hi').trans hinv
    exact ⟨x, exec_withCap x hi' hinv h, by simp [hinv']⟩

end Sys2Proof.Machine
end

section
/-! The statements of 10_state.md settled: the configuration, STATUS, the log, and the invariants of every step. -/

namespace Sys2Proof.Safety

open Sys2Proof.Machine

/-! ## O47: the mirror's locations -/

theorem MirrorInRange.launch (x : ExternalDraw) (s : State) : MirrorInRange (s.launch x) := by
  refine ⟨fun e he => inCell_of_cellByte (mem_sparseOf _ he).1, ?_, ?_, ?_, ?_⟩ <;>
    exact fun e he => of_decide_eq_true (mem_sparseOf _ he).1

theorem MirrorInRange.effect {s t : State} {i : Instr} (h : Effect s i t) (hs : MirrorInRange s) : MirrorInRange t := by
  obtain ⟨hmem, hpmic, hpins, hlane, hdom⟩ := hs
  obtain ⟨-, -, hcfg⟩ := h.config
  refine ⟨fun e he => ?_, fun e he => (h.mem_pmic he).elim id (hpmic e), fun e he => (h.mem_pins he).elim id (hpins e),
    fun e he => (h.mem_laneMode he).elim id (hlane e), fun e he => (h.mem_domLevel he).elim id (hdom e)⟩
  rw [hcfg]
  exact (h.mem_mem he).elim id (hmem e)

theorem mirrorInRange_keptByStep : KeptByStep MirrorInRange where
  host _ h := h
  reset h := h
  launch x _ := .launch x _
  start _ h := h
  raise _ _ h := h
  effect _ _ he h := .effect he h

/-- Settles O47: a written entry has the key of its own operand, and a launch keeps only the keys of locations. -/
theorem stepKeepsMirrorInRange : Obligations.StepKeepsMirrorInRange :=
  fun _ _ hs h => mirrorInRange_keptByStep.step h hs

/-! ## O51: the one-shot rule -/

/-- One more entry keeps a property of at most one entry, where no earlier entry has it if the new one does. -/
theorem length_filter_append_le_one {α : Type} {p : α → Bool} {l : List α} {a : α} (h : (l.filter p).length ≤ 1)
    (hnew : p a = true → ∀ b ∈ l, p b = false) : ((l ++ [a]).filter p).length ≤ 1 := by
  rw [List.filter_append, List.length_append]
  cases ha : p a with
  | false => simpa [ha] using h
  | true =>
    have hnil : l.filter p = [] := List.filter_eq_nil_iff.2 fun b hb => by simp [hnew ha b hb]
    simp [hnil, ha]

/-- A lane that is not in `laneSel` has no `Ok` select in the log (R31). -/
theorem OneShot.not_selected {s : State} (h : OneShot s) {l : Byte} (hl : s.laneTaken l = false) (m : LaneMode) :
    Event.laneSel l m .ok ∉ s.log := by
  obtain ⟨htaken, -⟩ := h
  intro hlog
  simp [(htaken l).2 ⟨m, hlog⟩] at hl

/-- A domain that is not in `domSet` has no `Ok` set in the log (R32). -/
theorem OneShot.not_set {s : State} (h : OneShot s) {d : Byte} (hd : s.domTaken d = false) (v : VLevel) :
    Event.domSet d v .ok ∉ s.log := by
  obtain ⟨-, htaken, -⟩ := h
  intro hlog
  simp [(htaken d).2 ⟨v, hlog⟩] at hd

/-- Before a failure, a lane that is not in `laneSel` has no event in the log (R145). -/
theorem OneShot.no_laneEvent {s : State} (h : OneShot s) (hst : s.st ≠ .doneFail) {l : Byte} (hl : s.laneTaken l = false) :
    ∀ e ∈ s.log, isLaneEvent l e = false := by
  have hok := h.not_selected hl
  obtain ⟨-, -, -, -, herr⟩ := h
  intro e he
  by_contra hc
  cases e with
  | laneSel l' m r =>
    obtain rfl : l' = l := by simpa [isLaneEvent] using hc
    cases r with
    | ok => exact hok m he
    | err => simpa [isErrEvent] using herr hst _ he
  | _ => exact hc rfl

/-- Before a failure, a domain that is not in `domSet` has no event in the log (R152). -/
theorem OneShot.no_domEvent {s : State} (h : OneShot s) (hst : s.st ≠ .doneFail) {d : Byte} (hd : s.domTaken d = false) :
    ∀ e ∈ s.log, isDomEvent d e = false := by
  have hok := h.not_set hd
  obtain ⟨-, -, -, -, herr⟩ := h
  intro e he
  by_contra hc
  cases e with
  | domSet d' v r =>
    obtain rfl : d' = d := by simpa [isDomEvent] using hc
    cases r with
    | ok => exact hok v he
    | err => simpa [isErrEvent] using herr hst _ he
  | _ => exact hc rfl

/-- The one-shot rule over an unchanged log. -/
theorem OneShot.of_log_eq {s t : State} (h : OneShot s) (hst : s.st ≠ .doneFail) (hlane : t.laneSel = s.laneSel)
    (hdom : t.domSet = s.domSet) (hlog : t.log = s.log) : OneShot t := by
  unfold OneShot State.laneTaken State.domTaken at *
  rw [hlane, hdom, hlog]
  obtain ⟨hl, hd, honceL, honceD, herr⟩ := h
  exact ⟨hl, hd, honceL, honceD, fun _ => herr hst⟩

/-- The one-shot rule over one more event: a lane or domain that it calls for was not taken, and becomes taken if the event is
an `Ok`; an `Err` fails the run. -/
theorem OneShot.append {s t : State} {e : Event} (h : OneShot s) (hst : s.st ≠ .doneFail) (hlog : t.log = s.log ++ [e])
    (hcallL : ∀ l, isLaneEvent l e = true → s.laneTaken l = false)
    (hcallD : ∀ d, isDomEvent d e = true → s.domTaken d = false)
    (hlane : ∀ l, t.laneTaken l = true ↔ s.laneTaken l = true ∨ ∃ m, e = .laneSel l m .ok)
    (hdom : ∀ d, t.domTaken d = true ↔ s.domTaken d = true ∨ ∃ v, e = .domSet d v .ok)
    (hfail : isErrEvent e = true → t.st = .doneFail) : OneShot t := by
  have hnoL := fun l hl => h.no_laneEvent hst (hcallL l hl)
  have hnoD := fun d hd => h.no_domEvent hst (hcallD d hd)
  obtain ⟨htakenL, htakenD, honceL, honceD, herr⟩ := h
  unfold OneShot
  rw [hlog]
  refine ⟨fun l => ?_, fun d => ?_, fun l => length_filter_append_le_one (honceL l) (hnoL l),
    fun d => length_filter_append_le_one (honceD d) (hnoD d), fun ht e' he' => ?_⟩
  · simp [hlane, htakenL, exists_or, eq_comm]
  · simp [hdom, htakenD, exists_or, eq_comm]
  · rcases List.mem_append.1 he' with he' | he'
    · exact herr hst e' he'
    · rw [List.mem_singleton.1 he', Bool.eq_false_iff]
      exact fun he => ht (hfail he)

/-- The one-shot rule over one more event that is no select of a lane and no set of a domain. -/
theorem OneShot.append_other {s t : State} {e : Event} (h : OneShot s) (hst : s.st ≠ .doneFail)
    (hlog : t.log = s.log ++ [e]) (hlane : t.laneSel = s.laneSel) (hdom : t.domSet = s.domSet)
    (hnoL : ∀ l, isLaneEvent l e = false) (hnoD : ∀ d, isDomEvent d e = false)
    (hfail : isErrEvent e = true → t.st = .doneFail) : OneShot t := by
  refine h.append hst hlog (fun l he => ?_) (fun d he => ?_) (fun l => ?_) (fun d => ?_) hfail
  · simp [hnoL] at he
  · simp [hnoD] at he
  · have : ¬ ∃ m, e = .laneSel l m .ok := by rintro ⟨m, rfl⟩; simpa [isLaneEvent] using hnoL l
    simp [State.laneTaken, hlane, this]
  · have : ¬ ∃ v, e = .domSet d v .ok := by rintro ⟨v, rfl⟩; simpa [isDomEvent] using hnoD d
    simp [State.domTaken, hdom, this]

theorem OneShot.effect {s t : State} {i : Instr} (hst : s.st ≠ .doneFail) (h : Effect s i t) (hs : OneShot s) :
    OneShot t := by
  cases h with
  | check | idchkMatch | idchkMismatch | endPlan => exact hs.of_log_eq hst rfl rfl rfl
  | mwr | wr32 | pingrp | gpiodir | gpiowr | busrdOk | buswrOk =>
    exact hs.append_other hst rfl rfl rfl (fun _ => rfl) (fun _ => rfl) nofun
  | busrdErr | buswrErr => exact hs.append_other hst rfl rfl rfl (fun _ => rfl) (fun _ => rfl) fun _ => rfl
  | laneselOk l m _ _ hl =>
    refine hs.append hst rfl ?_ nofun (fun l' => ?_) (fun d => ?_) nofun
    · simp [isLaneEvent, hl]
    · simp [laneTaken_addLane, eq_comm (a := l)]
    · simp
  | laneselErr l m _ _ hl =>
    refine hs.append hst rfl ?_ nofun (fun l' => ?_) (fun d => ?_) fun _ => rfl
    · simp [isLaneEvent, hl]
    · simp
    · simp
  | domsetOk d v hd =>
    refine hs.append hst rfl nofun ?_ (fun l => ?_) (fun d' => ?_) nofun
    · simp [isDomEvent, hd]
    · simp
    · simp [domTaken_addDom, eq_comm (a := d)]
  | domsetErr d v hd =>
    refine hs.append hst rfl nofun ?_ (fun l => ?_) (fun d' => ?_) fun _ => rfl
    · simp [isDomEvent, hd]
    · simp
    · simp

/-- A block whose sets and log are empty meets the one-shot rule. -/
theorem OneShot.of_empty {s : State} (hlane : s.laneSel = 0) (hdom : s.domSet = 0) (hlog : s.log = []) : OneShot s := by
  simp [OneShot, State.laneTaken, State.domTaken, hlane, hdom, hlog]

theorem oneShot_keptByStep : KeptByStep OneShot where
  host _ h := h
  reset _ := .of_empty rfl rfl rfl
  launch _ _ := .of_empty rfl rfl rfl
  start hst h := h.of_log_eq (by simp [hst]) rfl rfl rfl
  raise _ hst h := h.of_log_eq (by simp [hst]) rfl rfl rfl
  effect hst _ he h := .effect (by simp [hst]) he h

/-- Settles O51: a call is made only where the set does not hold its lane or domain, so where the log has no event of it. -/
theorem stepKeepsOneShot : Obligations.StepKeepsOneShot :=
  fun _ _ hs h => oneShot_keptByStep.step h hs

/-! ## O52: the mirror agrees with the log -/

/-- Entries keep the values the log gives them, where one event more is logged and the one entry written, `x`'s, has no value
in the log before. -/
theorem agrees_append {V : Type} {gives : Byte → V → Event} {get get' : Byte → V} {log : List Event} {e : Event} {x : Byte}
    (hs : ∀ y v, gives y v ∈ log → get y = v) (hx : ∀ v, gives x v ∉ log) (hne : ∀ y, y ≠ x → get' y = get y)
    (he : ∀ y v, gives y v = e → get' y = v) : ∀ y v, gives y v ∈ log ++ [e] → get' y = v := by
  intro y v h
  obtain hold | hnew := List.mem_append.1 h
  · have hy : y ≠ x := by rintro rfl; exact hx v hold
    rw [hne y hy]
    exact hs y v hold
  · exact he y v (List.mem_singleton.1 hnew)

/-- The mode of a lane selected in the log is kept: a command that writes it would find the lane taken. -/
theorem lane_agrees {s t : State} {i : Instr} (h : Effect s i t) (hone : OneShot s)
    (hs : ∀ l m, Event.laneSel l m .ok ∈ s.log → s.modeOf l = m) :
    ∀ l m, Event.laneSel l m .ok ∈ t.log → t.modeOf l = m := by
  cases h with
  | laneselOk l m _ _ hl =>
    refine agrees_append hs (hone.not_selected hl) (fun l' hl' => ?_) (fun l' m' he => ?_)
    · simp [modeOf_setMode, hl']
    · cases he
      simp [modeOf_setMode]
  | laneselErr l m _ _ hl =>
    exact agrees_append hs (hone.not_selected hl) (fun l' hl' => by simp [modeOf_setMode, hl']) nofun
  | endPlan => exact hs
  | _ => simpa using hs

/-- The level of a domain set in the log is kept: a command that writes it would find the domain taken. -/
theorem dom_agrees {s t : State} {i : Instr} (h : Effect s i t) (hone : OneShot s)
    (hs : ∀ d v, Event.domSet d v .ok ∈ s.log → s.levelOf d = v) :
    ∀ d v, Event.domSet d v .ok ∈ t.log → t.levelOf d = v := by
  cases h with
  | domsetOk d v hd =>
    refine agrees_append hs (hone.not_set hd) (fun d' hd' => ?_) (fun d' v' he => ?_)
    · simp [levelOf_setLevel, hd']
    · cases he
      simp [levelOf_setLevel]
  | domsetErr d v hd =>
    exact agrees_append hs (hone.not_set hd) (fun d' hd' => by simp [levelOf_setLevel, hd']) nofun
  | endPlan => exact hs
  | _ => simpa using hs

/-- A valid capture holds the byte of a logged read: BUSRD logs the byte it captures, and no other command writes a capture. -/
theorem capture_agrees {s t : State} {i : Instr} (h : Effect s i t)
    (hs : ∀ idx, s.capValid idx = true → ∃ dev reg, Event.busRd dev reg (.ok (s.cap idx)) ∈ s.log) :
    ∀ idx, t.capValid idx = true → ∃ dev reg, Event.busRd dev reg (.ok (t.cap idx)) ∈ t.log := by
  cases h with
  | busrdOk dev reg idx b =>
    intro j hj
    by_cases hji : j = idx
    · exact ⟨dev, reg, by simp [cap_setCapture, hji]⟩
    · have hold : s.capValid j = true := by simpa [capValid_setCapture, hji] using hj
      obtain ⟨dev', reg', hlog⟩ := hs j hold
      exact ⟨dev', reg', by simp [cap_setCapture, hji, hlog]⟩
  | endPlan => exact hs
  | _ =>
    intro j hj
    obtain ⟨dev', reg', hlog⟩ := hs j (by simpa using hj)
    exact ⟨dev', reg', by simp [hlog]⟩

/-- A block with no valid capture and an empty log agrees with its mirror, whatever that holds. -/
theorem MirrorAgrees.of_empty {s : State} (hlog : s.log = []) (h0 : s.capValid0 = false) (h1 : s.capValid1 = false) :
    MirrorAgrees s := by
  simp [MirrorAgrees, State.capValid, hlog, h0, h1]

theorem mirrorAgrees_keptByStep : KeptByStep fun s => OneShot s ∧ MirrorAgrees s where
  host _ h := h
  reset h := ⟨oneShot_keptByStep.reset h.1, .of_empty rfl rfl rfl⟩
  launch x h := ⟨oneShot_keptByStep.launch x h.1, .of_empty rfl rfl rfl⟩
  start hst h := ⟨oneShot_keptByStep.start hst h.1, h.2⟩
  raise hc hst h := ⟨oneShot_keptByStep.raise hc hst h.1, h.2⟩
  effect hst hpc he h := by
    obtain ⟨hone, hlane, hdom, hcap⟩ := h
    exact ⟨oneShot_keptByStep.effect hst hpc he hone, lane_agrees he hone hlane, dom_agrees he hone hdom,
      capture_agrees he hcap⟩

/-- Settles O52: a later command of a selected lane or a set domain faults before it writes the mirror, by the one-shot rule. -/
theorem stepKeepsMirrorAgreement : Obligations.StepKeepsMirrorAgreement :=
  fun _ _ hone hs h => (mirrorAgrees_keptByStep.step h ⟨hone, hs⟩).2

/-! ## O14: STATUS -/

/-- R29: each field of STATUS, at its place. -/
theorem status_fields (s : State) :
    s.status.extractLsb' 0 2 = s.st.code ∧ s.status.extractLsb' 2 2 = 0 ∧ s.status.extractLsb' 4 4 = s.cause
      ∧ s.status.extractLsb' 8 8 = s.pc ∧ s.status.extractLsb' 16 12 = s.chipName
      ∧ s.status.extractLsb' 28 4 = s.chipVer := by
  refine ⟨?_, ?_, ?_, ?_, ?_, ?_⟩ <;>
  · ext i hi
    simp only [State.status, BitVec.getElem_extractLsb', BitVec.getLsbD_append]
    grind

/-- Settles O14: the fields by their bits, the reset value by evaluation, the host's write by the step's refusal. -/
theorem statusWordFields : Obligations.StatusWordFields := by
  refine ⟨fun s => ?_, by decide, fun s v rest h => ?_⟩
  · have h := status_fields s
    cases hst : s.st <;> rw [hst] at h <;> exact h
  · simp only [step, State.nextMove, h]

/-! ## O41: the log -/

/-- Settles O41: a command that calls logs, and only a fault, IDCHK or END logs nothing. -/
theorem logGrowsByOneEventPerCall : Obligations.LogGrowsByOneEventPerCall := by
  intro i s t hrun h
  obtain ⟨hlog, hcalls, hsilent⟩ | ⟨⟨e, hlog⟩, hcalls, hid, hend⟩ := (Effect.of_exec h).log_cases
  · refine ⟨.inl hlog, .inl hcalls, fun _ => hlog, fun ht hn => ?_⟩
    obtain hfail | ⟨n, rfl⟩ | rfl := hsilent
    · simp [hfail] at ht
    · exact absurd rfl (hn n)
    · cases h
      cases ht
  · have hne : t.log ≠ s.log := by simp [hlog]
    exact ⟨.inr ⟨e, hlog⟩, hcalls.imp_right fun hc => ⟨hc, hne⟩,
      fun hi => hi.elim (fun ⟨n, hn⟩ => absurd hn (hid n)) (absurd · hend), fun _ _ => hne⟩

/-! ## O42: the configuration -/

/-- The configuration is the one given. -/
def ConfigIs (rom : Memory) (len : Byte) (cfg : Params) (s : State) : Prop :=
  s.planRom = rom ∧ s.planLen = len ∧ s.cfg = cfg

theorem configIs_keptByStep (rom : Memory) (len : Byte) (cfg : Params) : KeptByStep (ConfigIs rom len cfg) where
  host _ h := h
  reset h := h
  launch _ h := h
  start _ h := h
  raise _ _ h := h
  effect _ _ he h := by
    obtain ⟨hrom, hlen, hcfg⟩ := he.config
    exact ⟨hrom.trans h.1, hlen.trans h.2.1, hcfg.trans h.2.2⟩

/-- Settles O42: being the configuration of the first state is an invariant. -/
theorem configurationIsImmutable : Obligations.ConfigurationIsImmutable :=
  fun s _ h => (configIs_keptByStep s.planRom s.planLen s.cfg).step h ⟨rfl, rfl, rfl⟩

/-! ## O44: invalid captures -/

/-- Settles O44: each capture is one case of the statement for both. -/
theorem invalidCaptureIsNeverObserved : Obligations.InvalidCaptureIsNeverObserved :=
  fun _ _ _ x h => ⟨fun h0 => exec_withCap_of_invalid (idx := 0) x h0 h, fun h1 => exec_withCap_of_invalid (idx := 1) x h1 h⟩

/-! ## O48: the cause -/

theorem CauseLegal.raised {s : State} {c : Cause} (hst : s.st = .doneFail) (hc : c ≠ .none) (hcode : s.cause = c.code) :
    CauseLegal s :=
  ⟨fun _ => hcode ▸ Cause.code_range hc, fun h => absurd hst h⟩

theorem causeLegal_keptByStep : KeptByStep CauseLegal where
  host _ h := h
  reset _ := ⟨nofun, fun _ => rfl⟩
  launch _ _ := ⟨nofun, fun _ => rfl⟩
  start hst h := ⟨nofun, fun _ => h.2 (by simp [hst])⟩
  raise hc _ _ := .raised rfl hc rfl
  effect hst _ he h := by
    obtain ⟨hfail, c, hc, hcode⟩ | ⟨hcause, hst'⟩ := he.st_cases
    · exact .raised hfail hc hcode
    · have hzero := hcause.trans (h.2 (by simp [hst]))
      rw [hst] at hst'
      exact ⟨fun hf => by simp [hf] at hst', fun _ => hzero⟩

/-- Settles O48: a fault records a code of R177, and every other step leaves Run's cause 0 or resets it. -/
theorem stepKeepsCauseLegal : Obligations.StepKeepsCauseLegal :=
  fun _ _ hs h => causeLegal_keptByStep.step h hs

/-! ## O50: the program counter -/

theorem pcInPlan_keptByStep : KeptByStep PcInPlan where
  host _ h := h
  reset _ := Nat.zero_le _
  launch _ _ := Nat.zero_le _
  start _ h := h
  raise _ _ h := h
  effect {s t _} _ hpc he h := by
    have hlt : s.pc.toNat < s.planLen.toNat := hpc
    obtain ⟨-, hlen, -⟩ := he.config
    unfold PcInPlan
    rw [hlen]
    obtain hsame | hnext := he.pc_cases
    · rw [hsame]; exact h
    · rw [hnext, BitVec.toNat_add]
      exact (Nat.mod_le _ _).trans hlt

/-- Settles O50: only a command within the plan advances `pc`, and by one. -/
theorem stepKeepsPcInPlan : Obligations.StepKeepsPcInPlan :=
  fun _ _ hs h => pcInPlan_keptByStep.step h hs

end Sys2Proof.Safety
end

section
/-! Commands and the plan ROM: the encoding of a well-formed instruction decodes to it (30_encoding.md R76 to R89), and bytes laid
into the ROM are read back where they were laid (20_memory.md R51, R53). -/

namespace Sys2Proof

open Sys2Proof.Laws.TableRow

/-! ## An encoded instruction decodes to itself -/

/-- An instruction's command meets its own row's match under its own row's mask. -/
theorem encode_meets_rowFor : ∀ i : Instr, encode i &&& (rowFor i).mask = (rowFor i).pattern
  | .mwr addr mask value => mwr addr mask value
  | .wr32 addr data => wr32 addr data
  | .domset dom lvl => domset dom lvl
  | .busrd dev reg idx => busrd dev reg idx
  | .buswr dev reg data => buswr dev reg data
  | .idchk expected => idchk expected
  | .lanesel lane mode => lanesel lane mode
  | .pingrp g => pingrp g
  | .gpiodir bank pin dir => gpiodir bank pin dir
  | .gpiowr bank pin level => gpiowr bank pin level
  | .endPlan => endPlan

/-- An instruction's opcode is its own row's. -/
theorem rowOf_op_encode (i : Instr) : rowOf (Command.op (encode i)) = some (rowFor i) := by
  cases i <;> simp only [encode, op_packCommand] <;> rfl

@[simp] theorem VLevel.ofBit_code (l : VLevel) : VLevel.ofBit l.code[0] = l := by cases l <;> rfl

@[simp] theorem PinDir.ofBit_code (d : PinDir) : PinDir.ofBit d.code[0] = d := by cases d <;> rfl

@[simp] theorem PinLevel.ofBit_code (l : PinLevel) : PinLevel.ofBit l.code[0] = l := by cases l <;> rfl

/-- No well-formed instruction's command holds a reserved value of its row (R81, R88). -/
theorem reserved_encode {i : Instr} (h : i.wf = true) : (rowFor i).reserved (encode i) = false := by
  cases i with
  | lanesel => simpa [rowFor, rowLanesel, Instr.wf, encode, BitVec.extractLsb'_setWidth_of_le] using h
  | _ => rfl

/-- An instruction's own row reads its operands back from its command (R83 to R89). -/
theorem operands_encode (i : Instr) : (rowFor i).operands (encode i) = i := by
  cases i with
  | mwr addr mask value =>
    have hmask : (mask ++ value).extractLsb' 16 16 = mask := BitVec.extractLsb'_append_eq_left
    have hvalue : (mask ++ value).extractLsb' 0 16 = value := BitVec.extractLsb'_append_eq_right
    simp only [rowFor, rowMwr, encode, x_packCommand, y_packCommand, hmask, hvalue]
  | busrd | buswr | idchk | lanesel =>
    simp [rowFor, rowBusrd, rowBuswr, rowIdchk, rowLanesel, encode, BitVec.extractLsb'_setWidth_of_le]
  | domset | gpiodir | gpiowr => simp [rowFor, rowDomset, rowGpiodir, rowGpiowr, encode]
  | wr32 | pingrp | endPlan => simp [rowFor, rowWr32, rowPingrp, rowEnd, encode]

/-- The twelve bytes of a well-formed instruction decode to it. -/
theorem decode_encodeBytes {i : Instr} (h : i.wf = true) : decode (encodeBytes i) = .ok i := by
  rw [encodeBytes, decode_bytesOfCommand, decode_of_row (rowOf_op_encode i) (encode_meets_rowFor i) (reserved_encode h),
    operands_encode]

end Sys2Proof

namespace Sys2Proof.Machine

/-! ## Bytes laid into a memory -/

/-- Laying bytes changes no byte before the first or after the last. -/
theorem sparseGet_layBytes_outside (m : Memory) {a j : Nat} (bs : List Byte) (h : j < a ∨ a + bs.length ≤ j) :
    sparseGet Config.unlistedByte (layBytes m a bs) j = sparseGet Config.unlistedByte m j := by
  induction bs generalizing m a with
  | nil => rfl
  | cons b bs ih =>
    rw [List.length_cons] at h
    rw [layBytes, ih _ (by omega), sparseGet_setByte, if_neg (by omega)]

/-- A laid byte is read back at its place. -/
theorem sparseGet_layBytes (m : Memory) (a : Nat) (bs : List Byte) {k : Nat} (hk : k < bs.length) :
    sparseGet Config.unlistedByte (layBytes m a bs) (a + k) = bs[k] := by
  induction bs generalizing m a k with
  | nil => simp at hk
  | cons b bs ih =>
    cases k with
    | zero => rw [layBytes, sparseGet_layBytes_outside _ _ (by omega), sparseGet_setByte, if_pos (by omega)]; rfl
    | succ k =>
      rw [layBytes, ← Nat.succ_add_eq_add_succ a k]
      exact ih _ _ _

/-! ## A plan laid into the ROM -/

@[simp] theorem length_encodeBytes (i : Instr) : (encodeBytes i).length = 12 := rfl

/-- Laying a plan from command `k` on changes no earlier byte. -/
theorem sparseGet_layPlan_of_lt (m : Memory) {k j : Nat} (plan : List Instr) (h : j < 12 * k) :
    sparseGet Config.unlistedByte (layPlan m k plan) j = sparseGet Config.unlistedByte m j := by
  induction plan generalizing m k with
  | nil => rfl
  | cons i plan ih => rw [layPlan, ih _ (by omega), sparseGet_layBytes_outside _ _ (.inl h)]

/-- Byte `o` of command `n` of a plan laid from command `k` on (R51). -/
theorem sparseGet_layPlan (m : Memory) (k : Nat) (plan : List Instr) {n o : Nat} (hn : n < plan.length) (ho : o < 12) :
    sparseGet Config.unlistedByte (layPlan m k plan) (12 * (k + n) + o) = (encodeBytes plan[n])[o] := by
  induction plan generalizing m k n with
  | nil => simp at hn
  | cons i plan ih =>
    cases n with
    | zero =>
      rw [layPlan, sparseGet_layPlan_of_lt _ _ (by omega)]
      exact sparseGet_layBytes m (12 * k) (encodeBytes i) ho
    | succ n =>
      rw [layPlan, ← Nat.succ_add_eq_add_succ k n]
      exact ih _ _ _

/-- The bytes of a command are the twelve from its offset on (R51). -/
theorem commandBytes_eq_map_range (s : State) (k : Nat) :
    s.commandBytes k = (List.range 12).map fun o => s.romByte (12 * k + o) := rfl

/-- A ROM that a plan was laid into holds each command's encoding at its place. -/
theorem commandBytes_of_layPlan {s : State} {plan : List Instr} (h : s.planRom = layPlan [] 0 plan) {k : Nat}
    (hk : k < plan.length) : s.commandBytes k = encodeBytes plan[k] := by
  rw [commandBytes_eq_map_range]
  refine List.ext_getElem rfl fun o ho _ => ?_
  have hbyte := sparseGet_layPlan [] 0 plan hk (o := o) (by simpa using ho)
  rw [Nat.zero_add] at hbyte
  simp only [List.getElem_map, List.getElem_range, State.romByte, h]
  exact hbyte

/-- A ROM that a well-formed plan was laid into reads as the plan. -/
theorem planText_of_layPlan {s : State} {plan : List Instr} (hrom : s.planRom = layPlan [] 0 plan)
    (hlen : s.planLen.toNat = plan.length) (hwf : ∀ i ∈ plan, i.wf = true) : s.planText = plan.map some := by
  refine List.ext_getElem (by simp [hlen]) fun k hk _ => ?_
  have hk : k < plan.length := by simpa [hlen] using hk
  simp [State.planText, commandBytes_of_layPlan hrom hk, decode_encodeBytes (hwf _ (List.getElem_mem hk))]

end Sys2Proof.Machine
end

section
/-! What the operations that memory's rules speak of do: the alignment check (20_memory.md R54), the reference backend (R66) and the
application of a pin group (41_pin_engine.md R114 to R118). -/

namespace Sys2Proof.Machine

/-! ## The alignment check (R54) -/

/-- R54: aligned is a multiple of four. -/
theorem aligned_iff {addr : Word} : aligned addr = true ↔ addr.toNat % 4 = 0 := by
  simp [aligned, ← BitVec.toNat_inj, BitVec.extractLsb'_toNat]

theorem storeWord_of_misaligned {addr : Word} (w : Word) (s : State) (h : addr.toNat % 4 ≠ 0) :
    s.storeWord addr w = s.raise .misaligned := by
  obtain ⟨ha, -⟩ | ⟨-, e⟩ := storeWord_cases addr w s
  · exact absurd (aligned_iff.1 ha) h
  · exact e

/-! ## The reference backend (R66) -/

section
variable {s t : State} {i : Instr}

/-- R66: the reference backend answers `Ok` to every call. -/
theorem answerTo_ok_of_reference (ha : s.answers = []) (hb : s.backend = .reference) (c : Call) :
    ∃ b, s.answerTo c = .ok b := by
  simp only [State.answerTo, ha, hb]
  cases c with
  | busRead bus dev reg =>
    unfold State.referenceAnswer
    dsimp only
    split <;> exact ⟨_, rfl⟩
  | busWrite | laneSelect | domainSet => exact ⟨0, rfl⟩

/-- R66: the reference backend answers a read of the regulator with `pmic[r]`. -/
theorem answerTo_busRead_of_reference (ha : s.answers = []) (hb : s.backend = .reference) (bus : Nat) (reg : Byte) :
    s.answerTo (.busRead bus s.cfg.pmicAddr reg) = .ok (s.pmicReg reg) := by
  simp only [State.answerTo, ha, hb, State.referenceAnswer, if_true]

/-- R38, R177: a command that faults although no call is answered `Err` has another cause than BUS_ERROR, DOMAIN_ERROR and
LANE_ERROR. -/
theorem Effect.cause_of_no_err (h : Effect s i t) (hok : ∀ c, ∃ b, s.answerTo c = .ok b) (hs : s.st ≠ .doneFail)
    (ht : t.st = .doneFail) : t.cause.toNat ∉ [1, 3, 4] := by
  have hno : ∀ {c : Call} {b : Byte}, s.answerTo c ≠ .err b := fun {c b} he => by
    obtain ⟨b', hb⟩ := hok c
    simp [he] at hb
  cases h with
  | check _ c hc =>
    revert hc
    rw [raise_cause]
    cases c <;> decide
  | idchkMismatch => exact (by decide : Cause.idMismatch.code.toNat ∉ [1, 3, 4])
  | domsetErr _ _ _ _ he | busrdErr _ _ _ _ he | buswrErr _ _ _ _ he => exact absurd he hno
  | laneselErr _ _ _ _ _ _ he => exact absurd he hno
  | endPlan => cases ht
  | _ => exact absurd (by simpa using ht) hs

end

/-! ## Pin groups -/

/-- R92, field by field. -/
theorem descWf_iff {cfg : Params} {d : Word} :
    descWf cfg d = true ↔ descReserved d = 0 ∧ descPull d ≠ 3 ∧ (descDrive d).toNat ≤ cfg.driveLevels
      ∧ (descBank d).toNat < cfg.numBanks ∧ (descPin d).toNat < cfg.pinsPerBank ∧ (descFunc d).toNat < cfg.numFuncs := by
  simp [descWf, pinInRange, and_assoc]

/-- A pin after a group: the descriptors that name it, applied in list order (R116, R118). -/
theorem pin_applyDescs (s : State) (ds : List Word) (b p : Byte) :
    (s.applyDescs ds).pin b p
      = (ds.filter fun d => descBank d == b && descPin d == p).foldl (fun q d => descApplied d q) (s.pin b p) := by
  unfold State.pin State.applyDescs
  dsimp only
  generalize s.pins = pins
  induction ds generalizing pins with
  | nil => rfl
  | cons d ds ih =>
    rw [List.foldl_cons, ih, sparseGet_applyDesc]
    by_cases hd : descBank d = b ∧ descPin d = p
    · rw [List.filter_cons_of_pos (by simpa using hd), if_pos (by simpa [eq_comm] using hd)]
      rfl
    · rw [List.filter_cons_of_neg (by simpa using hd), if_neg (by simpa [eq_comm] using hd)]

theorem pinGroup_of_wf {s : State} {g : Byte} {ds : List Word} (hg : s.group g = some ds)
    (hwf : ∀ d ∈ ds, descWf s.cfg d = true) : s.pinGroup g = ((s.emit (.pinGroup g ds)).applyDescs ds).advance := by
  have hw : groupWf s.cfg ds = true := List.all_eq_true.2 hwf
  simp [State.pinGroup, hg, hw]

end Sys2Proof.Machine
end

section
/-! The statements of 20_memory.md settled: the plan ROM, the two kinds of store, the descriptor groups and the reference
backend. -/

namespace Sys2Proof.Safety

open Sys2Proof.Machine

/-! ## O5: the plan ROM -/

/-- Settles O5: a plan that P_PLAN_LEN can count is laid in and reads as itself; a longer one is refused. -/
theorem planRomHoldsTheLoadedPlan : Obligations.PlanRomHoldsTheLoadedPlan := by
  intro s plan
  obtain ⟨hlen, hload⟩ | ⟨hlen, hload⟩ := loadPlan_cases plan s <;> unfold maxPlanLen at hlen
  · have htoNat : (BitVec.ofNat 8 plan.length).toNat = plan.length := by rw [BitVec.toNat_ofNat]; omega
    exact ⟨fun _ hwf => ⟨_, hload, planText_of_layPlan rfl htoNat hwf, htoNat⟩, fun _ => by omega⟩
  · exact ⟨fun _ => by omega, fun _ => hload⟩

/-! ## O16, O19: stores -/

/-- Settles O16: the store leaves the merged cell, and the merge is bit by bit. -/
theorem maskedStoreTouchesOnlyMaskedBits : Obligations.MaskedStoreTouchesOnlyMaskedBits := by
  intro s a w hkind i hi
  rw [mreg_memWrite w hkind, getLsbD_mergeMasked _ _ hi]

/-- Settles O19: both commands store through the one alignment check. -/
theorem misalignedStoreFaults : Obligations.MisalignedStoreFaults := by
  intro s addr h
  have hstore : ∀ w, FaultedOnly 6 s (s.storeWord addr w) := fun w => storeWord_of_misaligned w s h
  exact ⟨fun mask value => ⟨_, exec_mwr addr mask value s, hstore _⟩, fun data => ⟨_, exec_wr32 addr data s, hstore _⟩⟩

/-! ## O21: pin groups -/

/-- Settles O21: the group passes its check, and its descriptors are folded into the pins one by one. -/
theorem pingrpAppliesGroupInOrder : Obligations.PingrpAppliesGroupInOrder := by
  intro s g stored ds hstored hds hwf
  have hg : s.group g = some ds := groupOf_eq_some.2 ⟨stored, hstored, hds.symm⟩
  refine ⟨_, by rw [exec_pingrp, pinGroup_of_wf hg fun d hd => descWf_iff.2 (hwf d hd)], rfl, fun b p => ?_⟩
  exact pin_applyDescs s ds b p

/-! ## O33: the reference backend -/

/-- Settles O33: every call is answered `Ok`, so no command faults on an `Err`. -/
theorem referenceBackendAnswersOk : Obligations.ReferenceBackendAnswersOk := by
  intro s ha hb
  refine ⟨fun reg idx => ?_, fun i t h hrun ht => ?_⟩
  · have hread := answerTo_busRead_of_reference ha hb s.cfg.bus reg
    refine ⟨_, by rw [exec_busrd, State.busReadInto, hread], ?_, rfl⟩
    simp [cap_setCapture]
  · have hcause := (Effect.of_exec h).cause_of_no_err (answerTo_ok_of_reference ha hb) (by simp [hrun]) ht
    refine ⟨?_, ?_, ?_⟩ <;> intro e <;> simp [e] at hcause

end Sys2Proof.Safety
end

section
/-! Which commands decode, and from which their instructions are made (30_encoding.md R77 to R94): a command decodes to an
instruction exactly where it meets the match and mask of that instruction's row with no reserved value. -/

namespace Sys2Proof

open Sys2Proof.Laws.TableRow

/-! ## The opcode chooses the row (R81) -/

/-- Every mask of R80 holds the whole opcode. -/
theorem op_mask_of_mem : ∀ r ∈ decodeTable, Command.op r.mask = 0xFF := by decide

/-- The opcode of a row's match finds that row: R80 gives no opcode twice. -/
theorem rowOf_op_pattern : ∀ r ∈ decodeTable, rowOf (Command.op r.pattern) = some r := by
  simp only [decodeTable, List.forall_mem_cons]
  exact ⟨rfl, rfl, rfl, rfl, rfl, rfl, rfl, rfl, rfl, rfl, rfl, nofun⟩

/-- A command that meets a row of R80 has that row's opcode. -/
theorem op_of_meets {k : Command} {r : Row} (hr : r ∈ decodeTable) (h : k &&& r.mask = r.pattern) :
    Command.op k = Command.op r.pattern := by
  have hop : Command.op k &&& Command.op r.mask = Command.op r.pattern :=
    h ▸ (BitVec.extractLsb'_and (x := k) (y := r.mask)).symm
  rwa [op_mask_of_mem r hr, byte_and_ones] at hop

theorem rowFor_mem (i : Instr) : rowFor i ∈ decodeTable := by
  cases i <;> simp [rowFor, decodeTable]

/-- What a row reads is an instruction of that row. -/
theorem rowFor_operands (k : Command) : ∀ r ∈ decodeTable, rowFor (r.operands k) = r := by
  simp only [decodeTable, List.forall_mem_cons]
  exact ⟨rfl, rfl, rfl, rfl, rfl, rfl, rfl, rfl, rfl, rfl, rfl, nofun⟩

/-- R81, said once: a command decodes to `i` exactly where it meets `i`'s row, with no reserved value, and `i` is what the row
reads. -/
theorem decodeCommand_eq_ok_iff {k : Command} {i : Instr} :
    decodeCommand k = .ok i
      ↔ k &&& (rowFor i).mask = (rowFor i).pattern ∧ (rowFor i).reserved k = false ∧ (rowFor i).operands k = i := by
  constructor
  · intro h
    obtain ⟨r, hr, hmeets, hreserved, rfl⟩ := row_of_decode h
    rw [rowFor_operands k r hr]
    exact ⟨hmeets, hreserved, rfl⟩
  · rintro ⟨hmeets, hreserved, hi⟩
    have hrow : rowOf (Command.op k) = some (rowFor i) := by
      rw [op_of_meets (rowFor_mem i) hmeets, rowOf_op_pattern _ (rowFor_mem i)]
    rw [decode_of_row hrow hmeets hreserved, hi]

theorem meets_of_decode {k : Command} {i : Instr} (h : decodeCommand k = .ok i) :
    k &&& (rowFor i).mask = (rowFor i).pattern :=
  (decodeCommand_eq_ok_iff.1 h).1

theorem decode_of_meets {k : Command} {i : Instr} (hmeets : k &&& (rowFor i).mask = (rowFor i).pattern)
    (hreserved : (rowFor i).reserved k = false) (hi : (rowFor i).operands k = i) : decodeCommand k = .ok i :=
  decodeCommand_eq_ok_iff.2 ⟨hmeets, hreserved, hi⟩

/-! ## A field whose must-be-zero bits are zero is its operand, extended (R77) -/

/-- A vector that is 0 under a mask of all bits from `n` on is its low `n` bits. -/
theorem setWidth_extractLsb'_of_and {w n : Nat} {v mask : BitVec w} (h : v &&& mask = 0)
    (hmask : ∀ i < w, n ≤ i → mask.getLsbD i = true) : (v.extractLsb' 0 n).setWidth w = v := by
  refine BitVec.eq_of_getLsbD_eq fun i hi => ?_
  have hbit : (v &&& mask).getLsbD i = false := by simp [h]
  by_cases hn : i < n
  · simp [hi, hn]
  · rw [BitVec.getLsbD_and, hmask i hi (by omega), Bool.and_true] at hbit
    simp [hn, hbit]

@[simp] theorem VLevel.code_ofBit (b : Bool) : (VLevel.ofBit b).code = BitVec.ofBool b := by cases b <;> rfl

@[simp] theorem PinDir.code_ofBit (b : Bool) : (PinDir.ofBit b).code = BitVec.ofBool b := by cases b <;> rfl

@[simp] theorem PinLevel.code_ofBit (b : Bool) : (PinLevel.ofBit b).code = BitVec.ofBool b := by cases b <;> rfl

/-- A byte of whose bits only bit 0 is free is its bit 0. -/
theorem setWidth_ofBool_of_and {b : Byte} (h : b &&& 0xFE = 0) : (BitVec.ofBool (b.getLsbD 0)).setWidth 8 = b := by
  have hbit : BitVec.ofBool (b.getLsbD 0) = b.extractLsb' 0 1 := by
    ext i hi
    obtain rfl : i = 0 := by omega
    simp [BitVec.getElem_extractLsb']
  rw [hbit, setWidth_extractLsb'_of_and h (by decide)]

/-- The two halves of a word. -/
theorem append_extractLsb'_halves (w : Word) : w.extractLsb' 16 16 ++ w.extractLsb' 0 16 = w := by
  refine BitVec.eq_of_getLsbD_eq fun i hi => ?_
  rw [BitVec.getLsbD_append]
  split
  · simp [*]
  · simp [show i - 16 < 16 by omega, show 16 + (i - 16) = i by omega]

/-- Fields packed are a command exactly where each is the command's field. -/
theorem packCommand_eq_iff {k : Command} {op a b c : Byte} {x y : Word} :
    packCommand op a b c x y = k
      ↔ op = Command.op k ∧ a = Command.a k ∧ b = Command.b k ∧ c = Command.c k ∧ x = Command.x k ∧ y = Command.y k := by
  conv_lhs => rw [← packCommand_fields k]
  exact packCommand_inj

/-- No bit is ignored: a command that meets a row of R80 is the encoding of what the row reads. -/
theorem encode_of_meets {k : Command} {i : Instr} (hmeets : k &&& (rowFor i).mask = (rowFor i).pattern)
    (hi : (rowFor i).operands k = i) : encode i = k := by
  cases i with
  | mwr =>
    obtain ⟨hop, ha, hb, hc⟩ := meets_rowMwr.1 hmeets
    cases hi
    exact packCommand_eq_iff.2 ⟨hop.symm, ha.symm, hb.symm, hc.symm, rfl, append_extractLsb'_halves _⟩
  | wr32 =>
    obtain ⟨hop, ha, hb, hc⟩ := meets_rowWr32.1 hmeets
    cases hi
    exact packCommand_eq_iff.2 ⟨hop.symm, ha.symm, hb.symm, hc.symm, rfl, rfl⟩
  | domset =>
    obtain ⟨hop, hb, hc, hx, hy⟩ := meets_rowDomset.1 hmeets
    cases hi
    refine packCommand_eq_iff.2 ⟨hop.symm, rfl, ?_, hc.symm, hx.symm, hy.symm⟩
    rw [VLevel.code_ofBit, setWidth_ofBool_of_and hb]
  | busrd =>
    obtain ⟨hop, ha, hc, hx, hy⟩ := meets_rowBusrd.1 hmeets
    cases hi
    exact packCommand_eq_iff.2 ⟨hop.symm, setWidth_extractLsb'_of_and ha (by decide), rfl,
      setWidth_extractLsb'_of_and hc (by decide), hx.symm, hy.symm⟩
  | buswr =>
    obtain ⟨hop, ha, hx, hy⟩ := meets_rowBuswr.1 hmeets
    cases hi
    exact packCommand_eq_iff.2 ⟨hop.symm, setWidth_extractLsb'_of_and ha (by decide), rfl, rfl, hx.symm, hy.symm⟩
  | idchk =>
    obtain ⟨hop, ha, hb, hc, hx, hy⟩ := meets_rowIdchk.1 hmeets
    cases hi
    exact packCommand_eq_iff.2 ⟨hop.symm, ha.symm, hb.symm, hc.symm, setWidth_extractLsb'_of_and hx (by decide), hy.symm⟩
  | lanesel =>
    obtain ⟨hop, hb, hc, hx, hy⟩ := meets_rowLanesel.1 hmeets
    cases hi
    exact packCommand_eq_iff.2 ⟨hop.symm, rfl, setWidth_extractLsb'_of_and hb (by decide), hc.symm, hx.symm, hy.symm⟩
  | pingrp =>
    obtain ⟨hop, hb, hc, hx, hy⟩ := meets_rowPingrp.1 hmeets
    cases hi
    exact packCommand_eq_iff.2 ⟨hop.symm, rfl, hb.symm, hc.symm, hx.symm, hy.symm⟩
  | gpiodir =>
    obtain ⟨hop, hc, hx, hy⟩ := meets_rowGpiodir.1 hmeets
    cases hi
    refine packCommand_eq_iff.2 ⟨hop.symm, rfl, rfl, ?_, hx.symm, hy.symm⟩
    rw [PinDir.code_ofBit, setWidth_ofBool_of_and hc]
  | gpiowr =>
    obtain ⟨hop, hc, hx, hy⟩ := meets_rowGpiowr.1 hmeets
    cases hi
    refine packCommand_eq_iff.2 ⟨hop.symm, rfl, rfl, ?_, hx.symm, hy.symm⟩
    rw [PinLevel.code_ofBit, setWidth_ofBool_of_and hc]
  | endPlan =>
    obtain ⟨hop, ha, hb, hc, hx, hy⟩ := meets_rowEnd.1 hmeets
    exact packCommand_eq_iff.2 ⟨hop.symm, ha.symm, hb.symm, hc.symm, hx.symm, hy.symm⟩

/-- What a row reads from a command with no reserved value is well-formed (R88). -/
theorem wf_of_not_reserved {k : Command} {i : Instr} (h : (rowFor i).reserved k = false)
    (hi : (rowFor i).operands k = i) : i.wf = true := by
  cases i with
  | lanesel =>
    cases hi
    simpa [rowFor, rowLanesel, Instr.wf] using h
  | _ => rfl

/-- R88: where the must-be-zero bits of LANESEL's `B` are zero, its mode is legal exactly where the whole byte is not 3. -/
theorem laneMode_legal_iff {b : Byte} (h : b &&& 0xFC = 0) : LaneMode.legal (b.extractLsb' 0 2) = true ↔ b ≠ 3 := by
  revert b
  decide

/-- R88: LANESEL's reserved value is `B` = 3. -/
theorem reserved_rowLanesel_iff {k : Command} (h : k &&& rowLanesel.mask = rowLanesel.pattern) :
    rowLanesel.reserved k = false ↔ Command.b k ≠ 3 := by
  obtain ⟨-, hb, -⟩ := meets_rowLanesel.1 h
  rw [← laneMode_legal_iff hb, rowLanesel, Bool.not_eq_false']

/-- A command decodes to a LANESEL exactly where it meets LANESEL's row and `B` is not 3 (R80, R88). -/
theorem decodes_to_lanesel_iff {k : Command} :
    (∃ lane mode, decodeCommand k = .ok (.lanesel lane mode))
      ↔ k &&& rowLanesel.mask = rowLanesel.pattern ∧ Command.b k ≠ 3 := by
  constructor
  · rintro ⟨lane, mode, h⟩
    obtain ⟨hmeets, hreserved, -⟩ := decodeCommand_eq_ok_iff.1 h
    exact ⟨hmeets, (reserved_rowLanesel_iff hmeets).1 hreserved⟩
  · rintro ⟨hmeets, hb⟩
    exact ⟨_, _, decode_of_meets hmeets ((reserved_rowLanesel_iff hmeets).2 hb) rfl⟩

/-! ## Reserved opcodes (R94) -/

/-- R94's reserved opcodes are in no row of R80. -/
theorem rowOf_eq_none_of_reserved {op : Byte}
    (h : op.toNat = 0x00 ∨ (0x0B ≤ op.toNat ∧ op.toNat ≤ 0x0E) ∨ (0x10 ≤ op.toNat ∧ op.toNat ≤ 0xFF)) :
    rowOf op = none := by
  have hops : ∀ r ∈ decodeTable, (Command.op r.pattern).toNat ∈ [1, 2, 3, 4, 5, 6, 7, 8, 9, 10, 15] := by decide
  refine List.find?_eq_none.2 fun r hr he => ?_
  have hop := hops r hr
  rw [beq_iff_eq.1 he] at hop
  simp only [List.mem_cons, List.not_mem_nil, or_false] at hop
  omega

theorem decodeCommand_of_rowOf_eq_none {k : Command} (h : rowOf (Command.op k) = none) :
    decodeCommand k = .error (.reservedOpcode (Command.op k)) := by
  rw [decodeCommand, h]

/-- The opcode of a command is its first byte (R53, R76). -/
theorem op_commandOfWords (b0 b1 b2 b3 : Byte) (w1 w2 : Word) :
    Command.op (commandOfWords (wordOfBytes b0 b1 b2 b3) w1 w2) = b0 := by
  refine BitVec.eq_of_getLsbD_eq fun i hi => ?_
  simp only [Command.op, commandOfWords, wordOfBytes, BitVec.getLsbD_extractLsb', BitVec.getLsbD_append]
  simp [hi, show i < 32 by omega]

end Sys2Proof

namespace Sys2Proof.Machine

/-- A reserved opcode in the first byte of the command at `pc` is refused, whatever the other bytes (R94). -/
theorem decode_fetch_of_rowOf_eq_none {s : State} (h : rowOf (s.romByte (12 * s.pc.toNat)) = none) :
    ∃ r, decode s.fetch = .error r :=
  ⟨_, decodeCommand_of_rowOf_eq_none (by rw [op_commandOfWords, h])⟩

/-- R163: in Run within the plan, a command that does not decode raises ILLEGAL_COMMAND. -/
theorem step_of_decode_error {s : State} {r : DecodeReject} (hrun : s.st = .run) (hhost : s.host = [])
    (hpc : s.pc < s.planLen) (hr : decode s.fetch = .error r) : step s = .next (s.raise .illegalCommand) := by
  simp only [step, State.nextMove, hhost, State.coordMove, hrun, State.fetchMove, if_pos hpc, hr]

end Sys2Proof.Machine
end

section
/-! The assembler's forms (30_encoding.md R97, R98): a form of one, two or three operands assembles exactly where each operand is
the value of its field, and `mwr_field` to the masked write of its bits. -/

namespace Sys2Proof

theorem VLevel.ofBit_surjective : Function.Surjective VLevel.ofBit := fun l => ⟨_, VLevel.ofBit_code l⟩

theorem PinDir.ofBit_surjective : Function.Surjective PinDir.ofBit := fun d => ⟨_, PinDir.ofBit_code d⟩

theorem PinLevel.ofBit_surjective : Function.Surjective PinLevel.ofBit := fun l => ⟨_, PinLevel.ofBit_code l⟩

end Sys2Proof

namespace Sys2Proof.Machine

/-! ## Forms of one, two and three operands -/

section
variable {α β γ δ : Type} {x : Except AsmError α} {y : Except AsmError β} {z : Except AsmError γ}
variable {P : α → Prop} {Q : β → Prop} {R : γ → Prop} {is : List Instr}

theorem form_one_eq_ok (f : α → List Instr) (hx : ∀ a, x = .ok a ↔ P a) :
    (do return f (← x)) = .ok is ↔ ∃ a, is = f a ∧ P a := by
  simp only [except_bind_eq_ok, hx, pure, Except.pure, Except.ok.injEq, eq_comm (a := is), and_comm]

theorem form_two_eq_ok (f : α → β → List Instr) (hx : ∀ a, x = .ok a ↔ P a) (hy : ∀ b, y = .ok b ↔ Q b) :
    (do return f (← x) (← y)) = .ok is ↔ ∃ a b, is = f a b ∧ P a ∧ Q b := by
  rw [except_bind_eq_ok]
  simp only [form_one_eq_ok _ hy, hx, ← exists_and_left, and_left_comm]

theorem form_three_eq_ok (f : α → β → γ → List Instr) (hx : ∀ a, x = .ok a ↔ P a) (hy : ∀ b, y = .ok b ↔ Q b)
    (hz : ∀ c, z = .ok c ↔ R c) :
    (do return f (← x) (← y) (← z)) = .ok is ↔ ∃ a b c, is = f a b c ∧ P a ∧ Q b ∧ R c := by
  rw [except_bind_eq_ok]
  simp only [form_two_eq_ok _ hy hz, hx, ← exists_and_left, and_left_comm]

theorem fit_iff {w n : Nat} (v : BitVec w) : fit w n = .ok v ↔ v.toNat = n := fit_eq_ok

/-! A one-bit operand that stands for one of two named values (R85, R89). -/

variable {named : Bool → δ} {code : δ → Nat} {n : Nat}

theorem fitBit_iff (hcode : ∀ b, code (named b) = b.toNat) (b : Bool) : fitBit n = .ok b ↔ code (named b) = n := by
  rw [fitBit_eq_ok, hcode, eq_comm]

theorem form_two_bit_eq_ok (f : α → δ → List Instr) (hx : ∀ a, x = .ok a ↔ P a) (hnamed : Function.Surjective named)
    (hcode : ∀ b, code (named b) = b.toNat) :
    (do return f (← x) (named (← fitBit n))) = .ok is ↔ ∃ a d, is = f a d ∧ P a ∧ code d = n := by
  simp only [form_two_eq_ok (fun a b => f a (named b)) hx (fitBit_iff hcode), hnamed.exists]

theorem form_three_bit_eq_ok (f : α → β → δ → List Instr) (hx : ∀ a, x = .ok a ↔ P a) (hy : ∀ b, y = .ok b ↔ Q b)
    (hnamed : Function.Surjective named) (hcode : ∀ b, code (named b) = b.toNat) :
    (do return f (← x) (← y) (named (← fitBit n))) = .ok is ↔ ∃ a b d, is = f a b d ∧ P a ∧ Q b ∧ code d = n := by
  simp only [form_three_eq_ok (fun a b c => f a b (named c)) hx hy (fitBit_iff hcode), hnamed.exists]

end

/-! ## `mwr_field` (R98) -/

theorem fit_of_lt {w n : Nat} (h : n < 2 ^ w) : fit w n = .ok (BitVec.ofNat w n) := if_pos h

section
variable {addr hi lo v : Nat}

/-- The bits of the mask are LO to HI. -/
theorem testBit_fieldMask (h : lo ≤ hi) (b : Nat) : (fieldMask hi lo).testBit b = true ↔ lo ≤ b ∧ b ≤ hi := by
  simp only [fieldMask, Nat.testBit_mul_two_pow, Nat.testBit_two_pow_sub_one, Bool.and_eq_true, decide_eq_true_eq]
  omega

/-- A value below 2^(HI-LO+1), shifted by LO, fits 16 bits. -/
theorem shifted_lt (hlo : lo ≤ hi) (hhi : hi ≤ 15) (hv : v < 2 ^ (hi - lo + 1)) : v * 2 ^ lo < 2 ^ 16 := by
  calc v * 2 ^ lo < 2 ^ (hi - lo + 1) * 2 ^ lo := Nat.mul_lt_mul_of_pos_right hv (Nat.two_pow_pos lo)
    _ = 2 ^ (hi + 1) := by rw [← Nat.pow_add]; congr 1; omega
    _ ≤ 2 ^ 16 := Nat.pow_le_pow_right (by decide) (by omega)

theorem fieldMask_lt (hlo : lo ≤ hi) (hhi : hi ≤ 15) : fieldMask hi lo < 2 ^ 16 :=
  shifted_lt hlo hhi (Nat.sub_lt (Nat.two_pow_pos _) Nat.one_pos)

/-- The shifted value lies inside the mask. -/
theorem shifted_and_fieldMask (hv : v < 2 ^ (hi - lo + 1)) : v * 2 ^ lo &&& fieldMask hi lo = v * 2 ^ lo := by
  rw [fieldMask, ← Nat.shiftLeft_eq, ← Nat.shiftLeft_eq, ← Nat.shiftLeft_and_distrib, Nat.and_two_pow_sub_one_eq_mod,
    Nat.mod_eq_of_lt hv]

/-- Within its bounds `mwr_field` is one masked write of the field's mask and the shifted value. -/
theorem assemble_mwrField (ha : addr < 2 ^ 32) (hlo : lo ≤ hi) (hhi : hi ≤ 15) (hv : v < 2 ^ (hi - lo + 1)) :
    assemble (.mwrField addr hi lo v)
      = .ok [.mwr (BitVec.ofNat 32 addr) (BitVec.ofNat 16 (fieldMask hi lo)) (BitVec.ofNat 16 (v * 2 ^ lo))] := by
  rw [assemble, if_pos ⟨hlo, hhi, hv⟩, fit_of_lt ha, fit_of_lt (fieldMask_lt hlo hhi), fit_of_lt (shifted_lt hlo hhi hv)]
  rfl

/-- `mwr_field` assembles only where its address fits and its bounds hold. -/
theorem bounds_of_assemble_mwrField {is : List Instr} (h : assemble (.mwrField addr hi lo v) = .ok is) :
    addr < 2 ^ 32 ∧ lo ≤ hi ∧ hi ≤ 15 ∧ v < 2 ^ (hi - lo + 1) := by
  rw [assemble] at h
  split at h
  case isTrue hbounds =>
    obtain ⟨a, ha, -⟩ := except_bind_eq_ok.1 h
    exact ⟨fit_eq_ok.1 ha ▸ a.isLt, hbounds⟩
  case isFalse => cases h

end

end Sys2Proof.Machine
end

section
/-! The range check of the two GPIO commands (30_encoding.md R90). -/

namespace Sys2Proof.Machine

theorem pinInRange_eq_false_iff {cfg : Params} {bank pin : Byte} :
    pinInRange cfg bank pin = false ↔ cfg.numBanks ≤ bank.toNat ∨ cfg.pinsPerBank ≤ pin.toNat := by
  simp only [pinInRange, Bool.and_eq_false_iff, decide_eq_false_iff_not, not_lt]

theorem gpio_of_not_pinInRange {s : State} {bank pin : Byte} (e : Event) (change : Pin → Pin)
    (h : pinInRange s.cfg bank pin = false) : s.gpio bank pin e change = s.raise .illegalCommand := by
  obtain ⟨hin, -⟩ | ⟨-, he⟩ := gpio_cases bank pin e change s
  · simp [h] at hin
  · exact he

end Sys2Proof.Machine
end

section
/-! The statements of 30_encoding.md settled: the decoder and the encoder, the reserved opcodes, the assembler, and the range
check of the GPIO commands. -/

namespace Sys2Proof.Safety

open Sys2Proof.Machine

/-! ## O1, O2, O3: the encoding -/

/-- Settles O1: an instruction's command meets its own row, which reads the instruction back. -/
theorem decodeOfEncodedInstruction : Obligations.DecodeOfEncodedInstruction :=
  fun _ => decode_encodeBytes

/-- Settles O2: every field of a command is an operand or fixed by its row's match. -/
theorem everyCommandHasOneEncoding : Obligations.EveryCommandHasOneEncoding := by
  intro k i h
  obtain ⟨hmeets, hreserved, hi⟩ := decodeCommand_eq_ok_iff.1 h
  exact ⟨wf_of_not_reserved hreserved hi, encode_of_meets hmeets hi⟩

/-- Settles O3: each clause is a row's match and mask; only LANESEL's row has a reserved value. -/
theorem decoderFollowsMatchAndMask : Obligations.DecoderFollowsMatchAndMask := by
  intro k
  exact
    ⟨⟨fun ⟨_, _, _, h⟩ => meets_of_decode h, fun h => ⟨_, _, _, decode_of_meets h rfl rfl⟩⟩,
    ⟨fun ⟨_, _, h⟩ => meets_of_decode h, fun h => ⟨_, _, decode_of_meets h rfl rfl⟩⟩,
    ⟨fun ⟨_, _, h⟩ => meets_of_decode h, fun h => ⟨_, _, decode_of_meets h rfl rfl⟩⟩,
    ⟨fun ⟨_, _, _, h⟩ => meets_of_decode h, fun h => ⟨_, _, _, decode_of_meets h rfl rfl⟩⟩,
    ⟨fun ⟨_, _, _, h⟩ => meets_of_decode h, fun h => ⟨_, _, _, decode_of_meets h rfl rfl⟩⟩,
    ⟨fun ⟨_, h⟩ => meets_of_decode h, fun h => ⟨_, decode_of_meets h rfl rfl⟩⟩,
    decodes_to_lanesel_iff,
    ⟨fun ⟨_, h⟩ => meets_of_decode h, fun h => ⟨_, decode_of_meets h rfl rfl⟩⟩,
    ⟨fun ⟨_, _, _, h⟩ => meets_of_decode h, fun h => ⟨_, _, _, decode_of_meets h rfl rfl⟩⟩,
    ⟨fun ⟨_, _, _, h⟩ => meets_of_decode h, fun h => ⟨_, _, _, decode_of_meets h rfl rfl⟩⟩,
    ⟨fun h => meets_of_decode h, fun h => decode_of_meets h rfl rfl⟩⟩

/-! ## O9: reserved opcodes -/

/-- Settles O9: a reserved opcode has no row, so the command does not decode. -/
theorem reservedOpcodesAreIllegal : Obligations.ReservedOpcodesAreIllegal := by
  intro s hs hpc hop
  obtain ⟨hrun, hhost⟩ := hs
  obtain ⟨r, hr⟩ := decode_fetch_of_rowOf_eq_none (rowOf_eq_none_of_reserved hop)
  exact ⟨_, step_of_decode_error hrun hhost hpc hr, rfl⟩

/-! ## O58, O59: the assembler -/

/-- Settles O58: each form fits its operands one by one. -/
theorem assemblerNeverTruncates : Obligations.AssemblerNeverTruncates :=
  ⟨fun _ _ _ _ => form_three_eq_ok (fun a m v => [.mwr a m v]) fit_iff fit_iff fit_iff,
  fun _ _ _ => form_two_eq_ok (fun a d => [.wr32 a d]) fit_iff fit_iff,
  fun _ _ _ => form_two_bit_eq_ok (fun d l => [.domset d l]) fit_iff VLevel.ofBit_surjective (by decide),
  fun _ _ _ _ => form_three_eq_ok (fun d r i => [.busrd d r i]) fit_iff fit_iff fit_iff,
  fun _ _ _ _ => form_three_eq_ok (fun d r v => [.buswr d r v]) fit_iff fit_iff fit_iff,
  fun _ _ => form_one_eq_ok (fun n => [.idchk n]) fit_iff,
  fun _ _ _ => form_two_eq_ok (fun l m => [.lanesel l m]) fit_iff fit_iff,
  fun _ _ => form_one_eq_ok (fun g => [.pingrp g]) fit_iff,
  fun _ _ _ _ => form_three_bit_eq_ok (fun b p d => [.gpiodir b p d]) fit_iff fit_iff PinDir.ofBit_surjective (by decide),
  fun _ _ _ _ => form_three_bit_eq_ok (fun b p l => [.gpiowr b p l]) fit_iff fit_iff PinLevel.ofBit_surjective (by decide),
  fun _ => by rw [assemble, Except.ok.injEq, eq_comm],
  fun _ _ _ => form_two_eq_ok identifySeq fit_iff fit_iff,
  fun _ _ _ => form_two_eq_ok (fun b p => gpioOutHigh (b, p)) fit_iff fit_iff,
  fun _ _ _ => form_two_eq_ok (fun b p => gpioOutLow (b, p)) fit_iff fit_iff,
  fun _ _ _ _ => ⟨fun ⟨_, h⟩ => bounds_of_assemble_mwrField h, fun ⟨ha, hlo, hhi, hv⟩ => ⟨_, assemble_mwrField ha hlo hhi hv⟩⟩,
  nofun⟩

/-- Settles O59: the expansion's three words, each in 16 or 32 bits as a number. -/
theorem mwrFieldExpansion : Obligations.MwrFieldExpansion := by
  intro addr hi lo v ha hlo hhi hv
  refine ⟨_, _, _, assemble_mwrField ha hlo hhi hv, ?_, fun b hb => ?_, ?_, ?_⟩
  · rw [BitVec.toNat_ofNat, Nat.mod_eq_of_lt ha]
  · rw [BitVec.getLsbD_ofNat, decide_eq_true hb, Bool.true_and, testBit_fieldMask hlo]
  · rw [BitVec.toNat_ofNat, Nat.mod_eq_of_lt (shifted_lt hlo hhi hv)]
  · rw [← BitVec.ofNat_and, shifted_and_fieldMask hv]

/-! ## O25: GPIO commands out of range -/

/-- Settles O25: both commands go through the one range check. -/
theorem gpioOutOfRangeIsIllegal : Obligations.GpioOutOfRangeIsIllegal := by
  intro s bank pin h
  have hrange := pinInRange_eq_false_iff.2 h
  have hgpio : ∀ e change, FaultedOnly 5 s (s.gpio bank pin e change) := fun e change =>
    gpio_of_not_pinInRange e change hrange
  exact ⟨fun dir => ⟨_, exec_gpiodir bank pin dir s, hgpio _ _⟩, fun level => ⟨_, exec_gpiowr bank pin level s, hgpio _ _⟩⟩

end Sys2Proof.Safety
end

section
/-! What the masked writer's operations compute (40_masked_writer.md R100 to R105): the two compositions bit by bit, and the
effect of a store at an aligned address. -/

namespace Sys2Proof.Machine

/-! ## The compositions (R100, R103) -/

/-- A word is known by the bits of its two halves. -/
theorem word_eq_iff {x y : Word} :
    x = y ↔ ∀ i, i < 16 → x.getLsbD i = y.getLsbD i ∧ x.getLsbD (16 + i) = y.getLsbD (16 + i) := by
  refine ⟨fun h _ _ => h ▸ ⟨rfl, rfl⟩, fun h => BitVec.eq_of_getLsbD_eq fun i hi => ?_⟩
  by_cases hlo : i < 16
  · exact (h i hlo).1
  · rw [show i = 16 + (i - 16) by omega]
    exact (h (i - 16) (by omega)).2

/-- The lower half of the command's word is the masked value (R100). -/
theorem getLsbD_compose_lower (mask value : Half) {i : Nat} (hi : i < 16) :
    (compose mask value).getLsbD i = (value &&& mask).getLsbD i := by
  simp [compose, hi, show i < 32 by omega]

/-- Its upper half is the mask (R100). -/
theorem getLsbD_compose_upper (mask value : Half) {i : Nat} (hi : i < 16) :
    (compose mask value).getLsbD (16 + i) = mask.getLsbD i := by
  simp [compose, show 16 + i < 32 by omega]

/-- R100: the composed word is the mask above the masked value. -/
theorem compose_eq_append (mask value : Half) : compose mask value = mask ++ (value &&& mask) := by
  refine word_eq_iff.2 fun i hi => ⟨?_, ?_⟩
  · rw [getLsbD_compose_lower mask value hi, BitVec.getLsbD_append, if_pos hi]
  · rw [getLsbD_compose_upper mask value hi, BitVec.getLsbD_append, if_neg (by omega), Nat.add_sub_cancel_left]

section
variable (mask value : Word) {i : Nat}

/-- The lower half of the contract's word is the masked value's (R103). -/
theorem getLsbD_compose32_lower (hi : i < 16) : (compose32 mask value).getLsbD i = (value &&& mask).getLsbD i := by
  simp [compose32, hi]

/-- In its upper half the masked value's upper half falls on the mask's lower half (R103). -/
theorem getLsbD_compose32_upper (hi : i < 16) :
    (compose32 mask value).getLsbD (16 + i) = (mask.getLsbD i || (value &&& mask).getLsbD (16 + i)) := by
  rw [compose32, BitVec.getLsbD_or, BitVec.getLsbD_shiftLeft]
  simp [show 16 + i < 32 by omega]

/-- The compositions agree exactly where each bit of the masked value's upper half meets a set mask bit 16 below. -/
theorem compose32_eq_compose_iff :
    compose32 mask value = compose (mask.extractLsb' 0 16) (value.extractLsb' 0 16)
      ↔ ∀ i, i < 16 → value.getLsbD (16 + i) = true → mask.getLsbD (16 + i) = true → mask.getLsbD i = true := by
  rw [word_eq_iff]
  refine forall₂_congr fun i hi => ?_
  rw [getLsbD_compose32_lower mask value hi, getLsbD_compose32_upper mask value hi, getLsbD_compose_lower _ _ hi,
    getLsbD_compose_upper _ _ hi]
  simp [hi]

end

/-- A mask whose upper half is 0 has no bit there. -/
theorem getLsbD_upper_of_eq_zero {w : Word} (h : w.extractLsb' 16 16 = 0) {i : Nat} (hi : i < 16) :
    w.getLsbD (16 + i) = false := by
  have hbit : (w.extractLsb' 16 16).getLsbD i = false := by simp [h]
  simpa [hi] using hbit

/-! ## A store at an aligned address (R101, R104) -/

theorem storeWord_of_aligned {addr : Word} (w : Word) (s : State) (h : addr.toNat % 4 = 0) :
    s.storeWord addr w = ((s.memWrite addr w).emit (.mmioWr addr w)).advance :=
  if_pos (aligned_iff.2 h)

/-- R55 to R57: the mirror's part of a store is that of the memory write, and the rest is the event and `pc`. -/
theorem stored_of_aligned {addr : Word} (w : Word) (s : State) (h : addr.toNat % 4 = 0) :
    Safety.Stored addr w s (s.storeWord addr w) := by
  rw [storeWord_of_aligned w s h]
  refine ⟨rfl, fun hkind => ⟨fun b hb => ?_, fun a hlo hhi => ?_⟩, fun hkind => ⟨?_, fun a ha => ?_⟩, fun hkind a => ?_⟩
  · rw [advance_mreg, emit_mreg, mreg_memWrite w hkind, getLsbD_mergeMasked _ _ hb]
  · exact mmioByte_memWrite w (by simp only [hkind]; exact ⟨hlo, hhi⟩)
  · exact preg_memWrite w hkind
  · exact mmioByte_memWrite w (by simpa only [hkind] using ha)
  · exact mmioByte_memWrite w (by simp only [hkind])

end Sys2Proof.Machine
end

section
/-! The oracle replaced by another (log 3): what reads no answer, what passes the replacement through, and the commands that do
the same whatever it would answer (40_masked_writer.md R112, 60_exceptions.md R178). -/

namespace Sys2Proof.Machine

/-- `s` with its listed answers, its backend and its count of calls replaced. -/
def State.withOracle (answers : List Answer) (backend : Backend) (calls : Nat) (s : State) : State :=
  { s with answers := answers, backend := backend, calls := calls }

section
variable (as : List Answer) (b : Backend) (n : Nat) (s : State)

@[simp] theorem withOracle_cfg : (s.withOracle as b n).cfg = s.cfg := rfl
@[simp] theorem withOracle_group (g : Byte) : (s.withOracle as b n).group g = s.group g := rfl
@[simp] theorem withOracle_pin (bank pin : Byte) : (s.withOracle as b n).pin bank pin = s.pin bank pin := rfl
@[simp] theorem withOracle_cap (j : BitVec 1) : (s.withOracle as b n).cap j = s.cap j := rfl
@[simp] theorem withOracle_capValid (j : BitVec 1) : (s.withOracle as b n).capValid j = s.capValid j := rfl

@[simp] theorem raise_withOracle (c : Cause) : (s.withOracle as b n).raise c = (s.raise c).withOracle as b n := rfl
@[simp] theorem advance_withOracle : (s.withOracle as b n).advance = s.advance.withOracle as b n := rfl
@[simp] theorem emit_withOracle (e : Event) : (s.withOracle as b n).emit e = (s.emit e).withOracle as b n := rfl
@[simp] theorem setIdentity_withOracle : (s.withOracle as b n).setIdentity = s.setIdentity.withOracle as b n := rfl
@[simp] theorem memWrite_withOracle (a w : Word) :
    (s.withOracle as b n).memWrite a w = (s.memWrite a w).withOracle as b n := rfl
@[simp] theorem setPin_withOracle (bank pin : Byte) (v : Pin) :
    (s.withOracle as b n).setPin bank pin v = (s.setPin bank pin v).withOracle as b n := rfl
@[simp] theorem applyDescs_withOracle (ds : List Word) :
    (s.withOracle as b n).applyDescs ds = (s.applyDescs ds).withOracle as b n := rfl

/-! The bodies of the commands that make no call. -/

theorem storeWord_withOracle (a w : Word) : (s.withOracle as b n).storeWord a w = (s.storeWord a w).withOracle as b n := by
  unfold State.storeWord
  split <;> simp

theorem pinGroup_withOracle (g : Byte) : (s.withOracle as b n).pinGroup g = (s.pinGroup g).withOracle as b n := by
  unfold State.pinGroup
  rw [withOracle_group, withOracle_cfg]
  cases s.group g with
  | none => simp
  | some ds => dsimp only; split <;> simp

theorem gpio_withOracle (bank pin : Byte) (e : Event) (f : Pin → Pin) :
    (s.withOracle as b n).gpio bank pin e f = (s.gpio bank pin e f).withOracle as b n := by
  unfold State.gpio
  rw [withOracle_cfg, withOracle_pin]
  split <;> simp

theorem identityCheck_withOracle (expected : BitVec 12) :
    (s.withOracle as b n).identityCheck expected = (s.identityCheck expected).withOracle as b n := by
  unfold State.identityCheck
  rw [withOracle_capValid, withOracle_capValid, withOracle_cap, withOracle_cap]
  split
  · split <;> simp
  · simp

end

end Sys2Proof.Machine
end

section
/-! The statements of 40_masked_writer.md settled: the example words, the compositions, the two stores, and the commands that ask
no oracle. -/

namespace Sys2Proof.Safety

open Sys2Proof.Machine

/-! ## O4, O15, O20: encodings and compositions -/

/-- Settles O4: the bytes of each example are the encoding of its instruction, which decodes to itself. -/
theorem specExampleWordsDecode : Obligations.SpecExampleWordsDecode :=
  ⟨decode_encodeBytes (i := .mwr 0x00001000 0x00F0 0x0F5A) rfl, decode_encodeBytes (i := .busrd 0x20 0xED 0) rfl,
    decode_encodeBytes (i := .lanesel 2 LaneMode.pcieGen2) rfl⟩

/-- Settles O15: bit by bit. -/
theorem composedWordIsMaskThenValue : Obligations.ComposedWordIsMaskThenValue :=
  compose_eq_append

/-- Settles O20: a mask with no upper half meets the exact condition, because it sets none of the bits it speaks of. -/
theorem contractCompositionAgreement : Obligations.ContractCompositionAgreement := by
  intro mask value
  refine ⟨fun hmask => (compose32_eq_compose_iff mask value).2 fun i hi _ hbit => ?_, compose32_eq_compose_iff mask value⟩
  rw [getLsbD_upper_of_eq_zero hmask hi] at hbit
  exact absurd hbit Bool.false_ne_true

/-! ## O17, O18: stores -/

/-- Settles O17: MWR stores the composed word, which is the mask above the masked value. -/
theorem mwrStoresComposedWord : Obligations.MwrStoresComposedWord := by
  intro s addr mask value h
  rw [exec_mwr, compose_eq_append]
  exact ⟨_, rfl, stored_of_aligned _ s h⟩

/-- Settles O18: WR32 stores its data. -/
theorem wr32StoresData : Obligations.Wr32StoresData :=
  fun s addr data h => ⟨_, exec_wr32 addr data s, stored_of_aligned data s h⟩

/-! ## O43: the commands that ask no oracle -/

/-- Settles O43: each command's body passes the replaced oracle through. -/
theorem storesAndPinsIgnoreTheOracle : Obligations.StoresAndPinsIgnoreTheOracle := by
  intro i s t as b n hi h
  change exec i (s.withOracle as b n) = .next (t.withOracle as b n)
  cases i with
  | busrd | buswr | lanesel | domset => exact hi.elim
  | mwr | wr32 => cases h; rw [← storeWord_withOracle]; rfl
  | idchk => cases h; rw [← identityCheck_withOracle]; rfl
  | pingrp => cases h; rw [← pinGroup_withOracle]; rfl
  | gpiodir | gpiowr => cases h; rw [← gpio_withOracle]; rfl
  | endPlan => cases h; rfl

end Sys2Proof.Safety
end

section
/-! What the pin engine's commands do, case by case (41_pin_engine.md R116, R117, R122 to R125): a group refused as a whole, and
the one pin a GPIO command changes. -/

namespace Sys2Proof.Machine

/-! ## A group that is refused (R117) -/

/-- R92 broken, field by field. -/
theorem descWf_eq_false_iff {cfg : Params} {d : Word} :
    descWf cfg d = false ↔ descReserved d ≠ 0 ∨ descPull d = 3 ∨ cfg.driveLevels < (descDrive d).toNat
      ∨ cfg.numBanks ≤ (descBank d).toNat ∨ cfg.pinsPerBank ≤ (descPin d).toNat ∨ cfg.numFuncs ≤ (descFunc d).toNat := by
  rw [← Bool.not_eq_true, descWf_iff]
  simp only [not_and_or, ne_eq, not_not, not_le, not_lt]

/-- One ill-formed descriptor, wherever it stands, makes the group ill-formed. -/
theorem groupWf_eq_false_of_mem {cfg : Params} {ds : List Word} {d : Word} (hd : d ∈ ds) (hwf : descWf cfg d = false) :
    groupWf cfg ds = false :=
  List.all_eq_false.2 ⟨d, hd, by simp [hwf]⟩

theorem pinGroup_of_group_eq_none {s : State} {g : Byte} (hg : s.group g = none) :
    s.pinGroup g = s.raise .illegalCommand := by
  obtain ⟨ds, hds, -⟩ | ⟨-, he⟩ := pinGroup_cases g s
  · simp [hg] at hds
  · exact he

theorem pinGroup_of_not_wf {s : State} {g : Byte} {ds : List Word} (hg : s.group g = some ds)
    (hwf : groupWf s.cfg ds = false) : s.pinGroup g = s.raise .illegalCommand := by
  obtain ⟨ds', hds', hwf', -⟩ | ⟨-, he⟩ := pinGroup_cases g s
  · obtain rfl : ds = ds' := Option.some.inj (hg ▸ hds')
    simp [hwf] at hwf'
  · exact he

/-! ## A GPIO command in range (R122 to R125) -/

section
variable {s : State} {bank pin : Byte} (e : Event) (change : Pin → Pin)

theorem gpio_of_pinInRange (h : pinInRange s.cfg bank pin = true) :
    s.gpio bank pin e change = ((s.emit e).setPin bank pin (change (s.pin bank pin))).advance := by
  obtain ⟨-, he⟩ | ⟨hout, -⟩ := gpio_cases bank pin e change s
  · exact he
  · simp [h] at hout

/-- Of the fields, the common body changes the pins, `pc` and the log. -/
theorem gpio_frame (h : pinInRange s.cfg bank pin = true) :
    s.gpio bank pin e change
      = { s with pins := (s.gpio bank pin e change).pins, pc := s.pc + 1, log := s.log ++ [e] } := by
  rw [gpio_of_pinInRange e change h]
  rfl

theorem pin_gpio (h : pinInRange s.cfg bank pin = true) (b p : Byte) :
    (s.gpio bank pin e change).pin b p = if b = bank ∧ p = pin then change (s.pin bank pin) else s.pin b p := by
  rw [gpio_of_pinInRange e change h, advance_pin, pin_setPin, emit_pin]

/-- The effect both GPIO commands share: the frame, the named pin's new record, and every other pin as it was. -/
theorem gpio_changes_one_pin (h : pinInRange s.cfg bank pin = true) :
    s.gpio bank pin e change
        = { s with pins := (s.gpio bank pin e change).pins, pc := s.pc + 1, log := s.log ++ [e] }
      ∧ (s.gpio bank pin e change).pin bank pin = change (s.pin bank pin)
      ∧ ∀ b p, b ≠ bank ∨ p ≠ pin → (s.gpio bank pin e change).pin b p = s.pin b p := by
  refine ⟨gpio_frame e change h, ?_, fun b p hne => ?_⟩
  · rw [pin_gpio e change h, if_pos ⟨rfl, rfl⟩]
  · rw [pin_gpio e change h, if_neg (not_and_or.2 hne)]

end

theorem pinInRange_of_lt {cfg : Params} {bank pin : Byte} (hbank : bank.toNat < cfg.numBanks)
    (hpin : pin.toNat < cfg.pinsPerBank) : pinInRange cfg bank pin = true := by
  simp [pinInRange, hbank, hpin]

end Sys2Proof.Machine
end

section
/-! The statements of 41_pin_engine.md settled: a group refused as a whole, and the two GPIO commands in range. -/

namespace Sys2Proof.Safety

open Sys2Proof.Machine

/-! ## O22: a pin group refused -/

/-- Settles O22: an id out of range names no group, and one ill-formed descriptor fails the check of its whole group, which is
made before any descriptor is applied. -/
theorem pingrpNeverAppliesPartially : Obligations.PingrpNeverAppliesPartially := by
  intro s g h
  refine ⟨_, exec_pingrp g s, ?_⟩
  obtain hout | ⟨stored, d, hstored, hd, hbad⟩ := h
  · exact pinGroup_of_group_eq_none (groupOf_eq_none.2 hout)
  · have hg : s.group g = some (stored.map wordStored) := groupOf_eq_some.2 ⟨stored, hstored, rfl⟩
    exact pinGroup_of_not_wf hg (groupWf_eq_false_of_mem hd (descWf_eq_false_iff.2 hbad))

/-! ## O23, O24: GPIO commands in range -/

/-- Settles O23: the common body of the GPIO commands, with the direction as the field it changes. -/
theorem gpiodirSetsOnePinsDirection : Obligations.GpiodirSetsOnePinsDirection :=
  fun s bank pin dir hbank hpin =>
    ⟨_, exec_gpiodir bank pin dir s, gpio_changes_one_pin _ _ (pinInRange_of_lt hbank hpin)⟩

/-- Settles O24: the same body, with the latch as the field; it does not read the direction. -/
theorem gpiowrSetsOnePinsLevel : Obligations.GpiowrSetsOnePinsLevel :=
  fun s bank pin level hbank hpin =>
    ⟨_, exec_gpiowr bank pin level s, gpio_changes_one_pin _ _ (pinInRange_of_lt hbank hpin)⟩

end Sys2Proof.Safety
end

section
/-! What the two-wire commands do, answer by answer (42_two_wire.md R130, R131, R133), what the identification bytes decode to
(R136), the outcomes of the identification check (R137), and a plan that writes an identification register (R134). -/

namespace Sys2Proof.Machine

/-! ## A read transaction, by its answer -/

section
variable {s : State} {dev : BitVec 7} {reg : Byte}

/-- R130: the answer names the one case of the read. -/
theorem busReadInto_of_ok {byte : Byte} (idx : BitVec 1) (h : s.answerTo (.busRead s.cfg.bus dev reg) = .ok byte) :
    s.busReadInto dev reg idx = ((s.asked.emit (.busRd dev reg (.ok byte))).setCapture idx byte).advance := by
  simp only [State.busReadInto, h]

/-- R131: a failed read reaches no capture. -/
theorem busReadInto_of_err {left : Byte} (idx : BitVec 1) (h : s.answerTo (.busRead s.cfg.bus dev reg) = .err left) :
    s.busReadInto dev reg idx = (s.asked.emit (.busRd dev reg .err)).raise .busError := by
  simp only [State.busReadInto, h]

/-! ## A write transaction, by its answer -/

variable {data : Byte}

theorem busWriteTo_of_ok {b : Byte} (h : s.answerTo (.busWrite s.cfg.bus dev reg data) = .ok b) :
    s.busWriteTo dev reg data = ((s.asked.emit (.busWr dev reg data .ok)).pmicWritten dev reg data).advance := by
  simp only [State.busWriteTo, h]

theorem busWriteTo_of_err {left : Byte} (h : s.answerTo (.busWrite s.cfg.bus dev reg data) = .err left) :
    s.busWriteTo dev reg data
      = ((s.asked.emit (.busWr dev reg data .err)).pmicDrawn dev reg left).raise .busError := by
  simp only [State.busWriteTo, h]

/-- R133, R134: the register a write answered `Ok` reaches, and no other. -/
theorem pmicReg_busWriteTo_of_ok {b : Byte} (h : s.answerTo (.busWrite s.cfg.bus dev reg data) = .ok b) (r : Byte) :
    (s.busWriteTo dev reg data).pmicReg r
      = if dev = s.cfg.pmicAddr ∧ isIdReg reg = false ∧ r = reg then data else s.pmicReg r := by
  rw [busWriteTo_of_ok h, advance_pmicReg, pmicReg_pmicWritten, emit_cfg, asked_cfg, emit_pmicReg, asked_pmicReg]

/-- R133, R38: the register a write answered `Err` reaches, and no other. -/
theorem pmicReg_busWriteTo_of_err {left : Byte} (h : s.answerTo (.busWrite s.cfg.bus dev reg data) = .err left)
    (r : Byte) :
    (s.busWriteTo dev reg data).pmicReg r = if dev = s.cfg.pmicAddr ∧ r = reg then left else s.pmicReg r := by
  rw [busWriteTo_of_err h, raise_pmicReg, pmicReg_pmicDrawn, emit_cfg, asked_cfg, emit_pmicReg, asked_pmicReg]

end

/-! ## The identification registers (R134) -/

theorem isIdReg_iff {reg : Byte} : isIdReg reg = true ↔ reg = 0xED ∨ reg = 0xEE := by
  simp [isIdReg, pmicIdHiReg, pmicIdLoReg]

theorem isIdReg_eq_false_iff {reg : Byte} : isIdReg reg = false ↔ reg ≠ 0xED ∧ reg ≠ 0xEE := by
  rw [← Bool.not_eq_true, isIdReg_iff, not_or]

/-- R134: an `Ok` write of an identification register changes nothing. -/
theorem pmicWritten_of_isIdReg {reg : Byte} (h : isIdReg reg = true) (dev : BitVec 7) (data : Byte) (s : State) :
    s.pmicWritten dev reg data = s := by
  simp [State.pmicWritten, h]

/-- A check over every pc finds a plan's command that it calls bad, wherever that command stands. -/
theorem firstBad_isAt_ne_none {plan : List (Option Instr)} {i : Instr} {bad : Instr → Bool} (hmem : some i ∈ plan)
    (hbad : bad i = true) : firstBad plan.length (fun k => isAt plan k bad) ≠ none := by
  obtain ⟨k, hk, hget⟩ := List.getElem_of_mem hmem
  have hat : isAt plan k bad = true := by simp [isAt, commandAt, List.getElem?_eq_getElem hk, hget, hbad]
  intro hnone
  simp [firstBad_eq_none.1 hnone k hk] at hat

/-- R214: a write of an identification register of the regulator fails CHK_ID_READONLY. -/
theorem chkIdReadonly_ne_none {cfg : Params} {plan : List (Option Instr)} {reg data : Byte} (hreg : isIdReg reg = true)
    (hmem : some (.buswr cfg.pmicAddr reg data) ∈ plan) : chkIdReadonly cfg plan ≠ none :=
  firstBad_isAt_ne_none hmem (by simp [isPmicWrite, hreg])

/-- R206: an admitted plan passes R214. -/
theorem chkIdReadonly_of_admission {cfg : Params} {plan : List (Option Instr)} (h : admission cfg plan = none) :
    chkIdReadonly cfg plan = none := by
  obtain ⟨-, -, -, -, -, -, -, hid, -⟩ := admission_eq_none.1 h
  exact hid

/-! ## Identification (R136, R137) -/

/-- R136: the shifted high byte and the low byte's high nibble share no bit, so their union is their sum. -/
theorem toNat_decodeName (hi lo : Byte) : (decodeName hi lo).toNat = hi.toNat * 16 + lo.toNat / 16 := by
  have hlo : lo.toNat / 16 < 2 ^ 4 := by omega
  calc (decodeName hi lo).toNat
    _ = hi.toNat <<< 4 ||| lo.toNat / 16 := by
      simp (disch := omega) only [decodeName, BitVec.toNat_or, BitVec.toNat_shiftLeft, BitVec.toNat_setWidth,
        BitVec.toNat_ushiftRight, Nat.shiftLeft_eq, Nat.shiftRight_eq_div_pow, Nat.mod_eq_of_lt]
    _ = hi.toNat * 16 + lo.toNat / 16 := by rw [← Nat.shiftLeft_add_eq_or_of_lt hlo, Nat.shiftLeft_eq]

theorem toNat_decodeVer (lo : Byte) : (decodeVer lo).toNat = lo.toNat % 16 := by
  simp [decodeVer]

/-- R136: which number a name must be for the decoded one to equal it. -/
theorem decodeName_eq_iff {hi lo : Byte} {name : BitVec 12} :
    decodeName hi lo = name ↔ name.toNat = hi.toNat * 16 + lo.toNat / 16 := by
  rw [← BitVec.toNat_inj, toNat_decodeName, eq_comm]

section
variable {s : State} {expected : BitVec 12} (h0 : s.capValid 0 = true) (h1 : s.capValid 1 = true)
include h0 h1

theorem identityCheck_of_match (hname : decodeName (s.cap 0) (s.cap 1) = expected) :
    s.identityCheck expected = s.setIdentity.advance := by
  simp only [State.identityCheck, h0, h1, hname, Bool.and_self, if_true]

theorem identityCheck_of_mismatch (hname : decodeName (s.cap 0) (s.cap 1) ≠ expected) :
    s.identityCheck expected = s.setIdentity.raise .idMismatch := by
  simp only [State.identityCheck, h0, h1, hname, Bool.and_self, if_true, if_false]

end

end Sys2Proof.Machine
end

section
/-! The statements of 42_two_wire.md settled: the two transactions, the identification registers, and the identification
check. -/

namespace Sys2Proof.Safety

open Sys2Proof.Machine

/-! ## O26, O27, O28: transactions -/

/-- Settles O26: the captures are those of the one capture write. -/
theorem busrdCapturesTheByte : Obligations.BusrdCapturesTheByte := by
  intro s dev reg idx byte h
  refine ⟨_, exec_busrd dev reg idx s, ?_⟩
  rw [busReadInto_of_ok idx h]
  refine ⟨rfl, ?_, ?_, fun j hj => ⟨?_, ?_⟩⟩
  · rw [advance_cap, cap_setCapture, if_pos rfl]
  · rw [advance_capValid, capValid_setCapture, if_pos rfl]
  · rw [advance_cap, cap_setCapture, if_neg hj, emit_cap, asked_cap]
  · rw [advance_capValid, capValid_setCapture, if_neg hj, emit_capValid, asked_capValid]

/-- Settles O27: the regulator is read back through the law of a write answered `Ok`. -/
theorem buswrWritesTheRegister : Obligations.BuswrWritesTheRegister := by
  intro s dev reg data b h
  refine ⟨_, exec_buswr dev reg data s, ?_, fun hdev hhi hlo => ?_, fun r hr => ?_⟩
  · rw [busWriteTo_of_ok h]; rfl
  · rw [pmicReg_busWriteTo_of_ok h, if_pos ⟨hdev, isIdReg_eq_false_iff.2 ⟨hhi, hlo⟩, rfl⟩]
  · rw [pmicReg_busWriteTo_of_ok h, if_neg]
    rintro ⟨hdev, hid, rfl⟩
    obtain ⟨hhi, hlo⟩ := isIdReg_eq_false_iff.1 hid
    obtain hne | hne | hre | hre := hr
    exacts [hne rfl, hne hdev, hhi hre, hlo hre]

/-- Settles O28: the event is logged before the fault, and only a failed write draws, in the register it addressed. -/
theorem busFailureIsFatal : Obligations.BusFailureIsFatal := by
  intro s dev reg left
  refine ⟨fun idx h => ⟨_, exec_busrd dev reg idx s, ?_⟩, fun data h =>
    ⟨_, exec_buswr dev reg data s, ?_, fun r hr => ?_⟩⟩
  · rw [busReadInto_of_err idx h]; rfl
  · rw [busWriteTo_of_err h]; rfl
  · rw [pmicReg_busWriteTo_of_err h, if_neg]
    rintro ⟨hdev, rfl⟩
    exact hr.elim (· rfl) (· hdev)

/-! ## O29: the identification registers -/

/-- Settles O29: the write that is answered `Ok` leaves the regulator alone, and R214 finds the command at its pc. -/
theorem identificationRegistersAreReadOnly : Obligations.IdentificationRegistersAreReadOnly := by
  intro s reg data h
  have hreg := isIdReg_iff.2 h
  refine ⟨fun b hok => ⟨_, exec_buswr s.cfg.pmicAddr reg data s, ?_⟩, fun plan hmem => ?_⟩
  · rw [busWriteTo_of_ok hok, pmicWritten_of_isIdReg hreg]; rfl
  · have hchk := chkIdReadonly_ne_none hreg hmem
    exact ⟨hchk, fun hadm => hchk (chkIdReadonly_of_admission hadm)⟩

/-! ## O30, O31, O32: identification -/

/-- Settles O30: each field as a number. -/
theorem identityDecode : Obligations.IdentityDecode :=
  fun hi lo => ⟨toNat_decodeName hi lo, toNat_decodeVer lo⟩

/-- Settles O31: the stored name is the decoded one, which is the expected one. -/
theorem idchkMatchContinues : Obligations.IdchkMatchContinues := by
  intro s expected h0 h1 hname
  have hname := decodeName_eq_iff.2 hname
  refine ⟨_, exec_idchk expected s, ?_⟩
  rw [identityCheck_of_match h0 h1 hname]
  exact ⟨by rw [← hname]; rfl, toNat_decodeVer (s.cap 1)⟩

/-- Settles O32: a capture that was never written ends the run before the identity is written, a mismatch after it. -/
theorem idchkFaults : Obligations.IdchkFaults := by
  intro s expected
  refine ⟨fun hinv => ⟨_, exec_idchk expected s, ?_⟩, fun h0 h1 hne => ?_⟩
  · obtain h | h := hinv <;> rw [identityCheck_of_invalid expected h] <;> rfl
  · refine ⟨_, exec_idchk expected s, ?_⟩
    rw [identityCheck_of_mismatch h0 h1 (mt decodeName_eq_iff.1 hne)]
    exact ⟨rfl, toNat_decodeName (s.cap 0) (s.cap 1), toNat_decodeVer (s.cap 1)⟩

end Sys2Proof.Safety
end

section
/-! What the port commands do, case by case (43_phy_domain.md R145 to R147, R150, R151): the checks in their order, then the
one call of the primitive, by its answer. -/

namespace Sys2Proof.Machine

/-! ## LANESEL's checks (R146) -/

section
variable {s : State} {lane : Byte} {mode : LaneMode}

theorem laneSelect_of_illegal (h : mode = 3 ∨ s.cfg.numLanes ≤ lane.toNat) :
    s.laneSelect lane mode = s.raise .illegalCommand :=
  if_pos h

/-- With a legal mode and a lane in range, what remains of the checks is the one-shot rule (R145). -/
theorem laneSelect_of_legal (hmode : mode ≠ 3) (hlane : lane.toNat < s.cfg.numLanes) :
    s.laneSelect lane mode = if s.laneTaken lane then s.raise .laneReselect else s.laneCall lane mode :=
  if_neg (not_or.2 ⟨hmode, hlane.not_ge⟩)

/-- R145: a lane that is selected already is not asked for again. -/
theorem laneSelect_of_taken (hmode : mode ≠ 3) (hlane : lane.toNat < s.cfg.numLanes) (htaken : s.laneTaken lane = true) :
    s.laneSelect lane mode = s.raise .laneReselect := by
  rw [laneSelect_of_legal hmode hlane, if_pos htaken]

theorem laneSelect_of_free (hmode : mode ≠ 3) (hlane : lane.toNat < s.cfg.numLanes) (hfree : s.laneTaken lane = false) :
    s.laneSelect lane mode = s.laneCall lane mode := by
  rw [laneSelect_of_legal hmode hlane, if_neg (Bool.eq_false_iff.1 hfree)]

/-! ## LANESEL's call, by its answer -/

theorem laneCall_of_ok {b : Byte} (h : s.answerTo (.laneSelect lane mode) = .ok b) :
    s.laneCall lane mode = (((s.asked.emit (.laneSel lane mode .ok)).setMode lane mode).addLane lane).advance := by
  simp only [State.laneCall, h]

/-- R147: the event is logged and the mode drawn before the fault, and the lane joins no set. -/
theorem laneCall_of_err {left : Byte} (h : s.answerTo (.laneSelect lane mode) = .err left) :
    s.laneCall lane mode
      = ((s.asked.emit (.laneSel lane mode .err)).setMode lane (drawnMode left)).raise .laneError := by
  simp only [State.laneCall, h]

/-- R146: lanes are independent, in their modes. -/
theorem modeOf_laneCall_of_ok {b : Byte} (h : s.answerTo (.laneSelect lane mode) = .ok b) (l : Byte) :
    (s.laneCall lane mode).modeOf l = if l = lane then mode else s.modeOf l := by
  rw [laneCall_of_ok h, advance_modeOf, addLane_modeOf, modeOf_setMode, emit_modeOf, asked_modeOf]

/-- R146: lanes are independent, in `laneSel`. -/
theorem laneTaken_laneCall_of_ok {b : Byte} (h : s.answerTo (.laneSelect lane mode) = .ok b) (l : Byte) :
    (s.laneCall lane mode).laneTaken l = (s.laneTaken l || l == lane) := by
  rw [laneCall_of_ok h, advance_laneTaken, laneTaken_addLane, setMode_laneTaken, emit_laneTaken, asked_laneTaken]

/-- R38: only the lane that the failed call named has its mode drawn. -/
theorem modeOf_laneCall_of_err {left : Byte} (h : s.answerTo (.laneSelect lane mode) = .err left) (l : Byte) :
    (s.laneCall lane mode).modeOf l = if l = lane then drawnMode left else s.modeOf l := by
  rw [laneCall_of_err h, raise_modeOf, modeOf_setMode, emit_modeOf, asked_modeOf]

end

/-! ## DOMSET's check (R150) -/

section
variable {s : State} {dom : Byte} {lvl : VLevel}

theorem domainSet_of_taken (htaken : s.domTaken dom = true) : s.domainSet dom lvl = s.raise .domainReset :=
  if_pos htaken

/-- R150: no range check stands before the call. -/
theorem domainSet_of_free (hfree : s.domTaken dom = false) : s.domainSet dom lvl = s.domCall dom lvl :=
  if_neg (Bool.eq_false_iff.1 hfree)

/-! ## DOMSET's call, by its answer -/

theorem domCall_of_ok {b : Byte} (h : s.answerTo (.domainSet dom lvl) = .ok b) :
    s.domCall dom lvl = (((s.asked.emit (.domSet dom lvl .ok)).setLevel dom lvl).addDom dom).advance := by
  simp only [State.domCall, h]

/-- R151: the event is logged and the level drawn before the fault, and the domain joins no set. -/
theorem domCall_of_err {left : Byte} (h : s.answerTo (.domainSet dom lvl) = .err left) :
    s.domCall dom lvl
      = ((s.asked.emit (.domSet dom lvl .err)).setLevel dom (drawnLevel left)).raise .domainError := by
  simp only [State.domCall, h]

theorem levelOf_domCall_of_ok {b : Byte} (h : s.answerTo (.domainSet dom lvl) = .ok b) (d : Byte) :
    (s.domCall dom lvl).levelOf d = if d = dom then lvl else s.levelOf d := by
  rw [domCall_of_ok h, advance_levelOf, addDom_levelOf, levelOf_setLevel, emit_levelOf, asked_levelOf]

theorem domTaken_domCall_of_ok {b : Byte} (h : s.answerTo (.domainSet dom lvl) = .ok b) (d : Byte) :
    (s.domCall dom lvl).domTaken d = (s.domTaken d || d == dom) := by
  rw [domCall_of_ok h, advance_domTaken, domTaken_addDom, setLevel_domTaken, emit_domTaken, asked_domTaken]

/-- R38: only the domain that the failed call named has its level drawn. -/
theorem levelOf_domCall_of_err {left : Byte} (h : s.answerTo (.domainSet dom lvl) = .err left) (d : Byte) :
    (s.domCall dom lvl).levelOf d = if d = dom then drawnLevel left else s.levelOf d := by
  rw [domCall_of_err h, raise_levelOf, levelOf_setLevel, emit_levelOf, asked_levelOf]

end

end Sys2Proof.Machine
end

section
/-! The statements of 43_phy_domain.md settled: lane selects and domain sets, each where it completes and where it faults. -/

namespace Sys2Proof.Safety

open Sys2Proof.Machine

/-! ## O34, O35: LANESEL -/

/-- Settles O34: past the checks the command is its call, and the call answered `Ok` writes one entry and adds one lane. -/
theorem laneselSelectsTheLane : Obligations.LaneselSelectsTheLane := by
  intro s lane mode b hmode hlane hfree hok
  refine ⟨_, exec_lanesel lane mode s, ?_⟩
  rw [laneSelect_of_free hmode hlane hfree]
  refine ⟨?_, ?_, ?_, fun l hl => ⟨?_, ?_⟩⟩
  · rw [laneCall_of_ok hok]; rfl
  · rw [modeOf_laneCall_of_ok hok, if_pos rfl]
  · rw [laneTaken_laneCall_of_ok hok, beq_self_eq_true, Bool.or_true]
  · rw [modeOf_laneCall_of_ok hok, if_neg hl]
  · rw [laneTaken_laneCall_of_ok hok, beq_false_of_ne hl, Bool.or_false]

/-- Settles O35: one clause for each check that fails, in their order, and one for the call answered `Err`. -/
theorem laneselFaultsInOrder : Obligations.LaneselFaultsInOrder := by
  intro s lane mode
  refine ⟨fun hillegal => ⟨_, exec_lanesel lane mode s, laneSelect_of_illegal hillegal⟩,
    fun hmode hlane htaken => ⟨_, exec_lanesel lane mode s, laneSelect_of_taken hmode hlane htaken⟩,
    fun left hmode hlane hfree herr => ⟨_, exec_lanesel lane mode s, ?_⟩⟩
  rw [laneSelect_of_free hmode hlane hfree]
  refine ⟨?_, fun l hl => ?_⟩
  · rw [laneCall_of_err herr]; rfl
  · rw [modeOf_laneCall_of_err herr, if_neg hl]

/-! ## O36, O37: DOMSET -/

/-- Settles O36: of a domain not yet set the command is its call, whatever the id. -/
theorem domsetSetsTheDomain : Obligations.DomsetSetsTheDomain := by
  intro s dom lvl b hfree hok
  refine ⟨_, exec_domset dom lvl s, ?_⟩
  rw [domainSet_of_free hfree]
  refine ⟨?_, ?_, ?_, fun d hd => ⟨?_, ?_⟩⟩
  · rw [domCall_of_ok hok]; rfl
  · rw [levelOf_domCall_of_ok hok, if_pos rfl]
  · rw [domTaken_domCall_of_ok hok, beq_self_eq_true, Bool.or_true]
  · rw [levelOf_domCall_of_ok hok, if_neg hd]
  · rw [domTaken_domCall_of_ok hok, beq_false_of_ne hd, Bool.or_false]

/-- Settles O37: the one check that can fail, and then the call answered `Err`. -/
theorem domsetFaultsInOrder : Obligations.DomsetFaultsInOrder := by
  intro s dom lvl
  refine ⟨fun htaken => ⟨_, exec_domset dom lvl s, domainSet_of_taken htaken⟩,
    fun left hfree herr => ⟨_, exec_domset dom lvl s, ?_⟩⟩
  rw [domainSet_of_free hfree]
  refine ⟨?_, fun d hd => ?_⟩
  · rw [domCall_of_err herr]; rfl
  · rw [levelOf_domCall_of_err herr, if_neg hd]

end Sys2Proof.Safety
end

section
/-! What the coordinator does, case by case (44_coordinator.md R155 to R167): the step by the host's input, the fetch and the
decode, how a command ends, and from that everything a step does to `st` and `pc`. -/

namespace Sys2Proof

/-! ## What decodes -/

theorem decode_error_of_ne_ok {bs : List Byte} (h : ∀ i, decode bs ≠ .ok i) : ∃ r, decode bs = .error r := by
  cases hd : decode bs with
  | error r => exact ⟨r, rfl⟩
  | ok i => exact absurd hd (h i)

/-- END's opcode is no other command's (R80). -/
theorem eq_endPlan_of_op_encode {i : Instr} (h : Command.op (encode i) = 0x0F) : i = .endPlan := by
  cases i with
  | endPlan => rfl
  | _ => simp [encode] at h

theorem encode_endPlan : encode .endPlan = 0x0F := by decide

/-- R161: of the commands with END's opcode only K = 0x0F decodes. -/
theorem eq_of_decode_of_op_end {k : Command} {i : Instr} (hop : Command.op k = 0x0F) (h : decodeCommand k = .ok i) :
    k = 0x0F := by
  obtain ⟨hmeets, hreserved, hi⟩ := decodeCommand_eq_ok_iff.1 h
  have henc : encode i = k := encode_of_meets hmeets hi
  obtain rfl : i = .endPlan := eq_endPlan_of_op_encode (henc ▸ hop)
  rw [← henc, encode_endPlan]

end Sys2Proof

namespace Sys2Proof.Machine

/-! ## The fetch (R162) -/

/-- The ROM's words three by three are its commands' words (R51, R53). -/
theorem romWord_three_mul_add (s : State) (k j : Nat) :
    s.romWord (3 * k + j) = wordOfBytes (s.romByte (12 * k + 4 * j)) (s.romByte (12 * k + 4 * j + 1))
      (s.romByte (12 * k + 4 * j + 2)) (s.romByte (12 * k + 4 * j + 3)) := by
  rw [State.romWord, show 4 * (3 * k + j) = 12 * k + 4 * j by omega]

/-- The bytes fetched are the ROM words at `3 pc`, the first lowest. -/
theorem decode_fetch (s : State) :
    decode s.fetch = decodeCommand
      (s.romWord (3 * s.pc.toNat + 2) ++ s.romWord (3 * s.pc.toNat + 1) ++ s.romWord (3 * s.pc.toNat)) := by
  rw [romWord_three_mul_add s _ 2, romWord_three_mul_add s _ 1, ← Nat.add_zero (3 * s.pc.toNat), romWord_three_mul_add s _ 0]
  rfl

/-! ## The step by the host's input (R155 to R157, R202) -/

section
variable {s : State} {rest : List HostInput}

theorem step_of_start {ctx : Nat} (h : s.host = .start ctx :: rest) : step s = State.start { s with host := rest } := by
  simp only [step, State.nextMove, h]

theorem step_of_launch {x : ExternalDraw} (h : s.host = .launch x :: rest) :
    step s = .next (State.launch x { s with host := rest }) := by
  simp only [step, State.nextMove, h]

theorem start_of_not_idle (h : s.st ≠ .idle) : s.start = .refused .startNotIdle := by
  unfold State.start
  cases hst : s.st with
  | idle => exact absurd hst h
  | _ => rfl

theorem start_of_launched (hidle : s.st = .idle) (h : s.launched = true) : s.start = .next { s with st := .run } := by
  simp only [State.start, hidle, h, if_true]

theorem start_of_not_launched (hidle : s.st = .idle) (h : s.launched = false) : s.start = .refused .secondRun := by
  simp [State.start, hidle, h]

/-! ## The coordinator's own step in Run (R157, R162, R163) -/

theorem coordMove_of_decode {i : Instr} (hrun : s.st = .run) (hpc : s.pc < s.planLen) (hi : decode s.fetch = .ok i) :
    s.coordMove = .execute i s := by
  simp only [State.coordMove, hrun, State.fetchMove, if_pos hpc, hi]

theorem step_of_decode {i : Instr} (hrun : s.st = .run) (hhost : s.host = []) (hpc : s.pc < s.planLen)
    (hi : decode s.fetch = .ok i) : step s = exec i s := by
  simp only [step, State.nextMove, hhost, coordMove_of_decode hrun hpc hi]

theorem step_of_proceed_decode {i : Instr} (hrun : s.st = .run) (hhost : s.host = .proceed :: rest) (hpc : s.pc < s.planLen)
    (hi : decode s.fetch = .ok i) : step s = exec i { s with host := rest } := by
  have hmove := coordMove_of_decode (s := { s with host := rest }) hrun hpc hi
  simp only [step, State.nextMove, hhost, hmove]

theorem step_of_overrun (hrun : s.st = .run) (hhost : s.host = []) (hpc : ¬ s.pc < s.planLen) :
    step s = .next (s.raise .planOverrun) := by
  simp only [step, State.nextMove, hhost, State.coordMove, hrun, State.fetchMove, if_neg hpc]

end

/-! ## How a command ends (R158, R161, R165) -/

/-- Every command answers a next state (R164). -/
theorem exec_next (i : Instr) (s : State) : ∃ t, exec i s = .next t := by
  cases i <;> exact ⟨_, rfl⟩

section
variable {s t : State} {i : Instr}

/-- A command faults and leaves `pc`, or it is END and leaves all but `st`, or it completes and advances `pc`. -/
theorem Effect.end_cases (h : Effect s i t) :
    (t.st = .doneFail ∧ t.pc = s.pc)
    ∨ (i = .endPlan ∧ t = { s with st := .doneOk })
    ∨ (i ≠ .endPlan ∧ t.st = s.st ∧ t.pc = s.pc + 1) := by
  cases h with
  | check | domsetErr | busrdErr | buswrErr | idchkMismatch | laneselErr => exact .inl ⟨rfl, rfl⟩
  | endPlan => exact .inr (.inl ⟨rfl, rfl⟩)
  | _ => exact .inr (.inr ⟨nofun, rfl, rfl⟩)

/-- No command touches the host's inputs (log 9). -/
theorem Effect.host (h : Effect s i t) : t.host = s.host := by
  cases h <;> rfl

/-! ## What a step does to `st` and `pc` -/

/-- A step resets, launches or starts the block, or it is a step of a run, which faults at `pc`, ends by END at `pc`, or goes
on at `pc + 1`. -/
theorem step_progress (h : step s = .next t) :
    (s.host.head? = some .reset ∧ t = State.blockReset { s with host := s.host.tail })
    ∨ (∃ x, s.host.head? = some (.launch x) ∧ t = State.launch x { s with host := s.host.tail })
    ∨ (s.st = .idle ∧ t = { s with host := s.host.tail, st := .run })
    ∨ (s.st = .run ∧
      ((t.st = .doneFail ∧ t.pc = s.pc)
      ∨ (s.pc < s.planLen ∧ decode s.fetch = .ok .endPlan ∧ t = { s with st := .doneOk, host := s.host.tail })
      ∨ (s.pc < s.planLen ∧ t.st = .run ∧ t.pc = s.pc + 1))) := by
  obtain ⟨rest, rfl, hreset | hlaunch | ⟨-, hidle, -, ht⟩ | ⟨-, hrun, u, rfl, hfetch⟩⟩ := step_cases h
  · exact .inl hreset
  · exact .inr (.inl hlaunch)
  · exact .inr (.inr (.inl ⟨hidle, ht⟩))
  · refine .inr (.inr (.inr ⟨hrun, ?_⟩))
    obtain ⟨-, rfl⟩ | ⟨-, -, rfl⟩ | ⟨hpc, i, hi, hexec⟩ := hfetch
    · exact .inl ⟨rfl, rfl⟩
    · exact .inl ⟨rfl, rfl⟩
    · obtain hfault | ⟨rfl, ht⟩ | ⟨-, hst, hnext⟩ := (Effect.of_exec hexec).end_cases
      · exact .inl hfault
      · exact .inr (.inl ⟨hpc, hi, ht⟩)
      · exact .inr (.inr ⟨hpc, hst.trans hrun, hnext⟩)

/-- Only a block reset or a launch leads to Idle (R156). -/
theorem step_to_idle (h : step s = .next t) (hidle : t.st = .idle) :
    (s.host.head? = some .reset ∧ t = State.blockReset { s with host := s.host.tail })
    ∨ ∃ x, s.host.head? = some (.launch x) ∧ t = State.launch x { s with host := s.host.tail } := by
  obtain hreset | hlaunch | ⟨-, rfl⟩ | ⟨-, ⟨hfail, -⟩ | ⟨-, -, rfl⟩ | ⟨-, hrun, -⟩⟩ := step_progress h
  · exact .inl hreset
  · exact .inr hlaunch
  · cases hidle
  · simp [hfail] at hidle
  · cases hidle
  · simp [hrun] at hidle

end

end Sys2Proof.Machine

namespace Sys2Proof.Safety

open Sys2Proof.Machine

theorem blockAtReset_blockReset (s : State) : BlockAtReset s.blockReset :=
  ⟨rfl, rfl, rfl, rfl, rfl, rfl, rfl, rfl, rfl, rfl⟩

theorem blockAtReset_launch (x : ExternalDraw) (s : State) : BlockAtReset (s.launch x) :=
  ⟨rfl, rfl, rfl, rfl, rfl, rfl, rfl, rfl, rfl, rfl⟩

/-- A running block has its step (R157), which ends the run or goes on at the plan's next command. -/
theorem Running.step_next {s : State} (hs : Running s) :
    ∃ t, step s = .next t
      ∧ (t.done = true ∨ (Running t ∧ s.pc < s.planLen ∧ t.pc = s.pc + 1 ∧ t.planLen = s.planLen)) := by
  obtain ⟨hrun, hhost⟩ := hs
  by_cases hpc : s.pc < s.planLen
  · cases hd : decode s.fetch with
    | error r => exact ⟨_, step_of_decode_error hrun hhost hpc hd, .inl rfl⟩
    | ok i =>
      obtain ⟨t, ht⟩ := exec_next i s
      have heff := Effect.of_exec ht
      refine ⟨t, (step_of_decode hrun hhost hpc hd).trans ht, ?_⟩
      obtain ⟨hfail, -⟩ | ⟨-, rfl⟩ | ⟨-, hst, hnext⟩ := heff.end_cases
      · exact .inl (by simp [State.done, hfail])
      · exact .inl rfl
      · exact .inr ⟨⟨hst.trans hrun, heff.host.trans hhost⟩, hpc, hnext, heff.config.2.1⟩
  · exact ⟨_, step_of_overrun hrun hhost hpc, .inl rfl⟩

/-- R167: the commands left in the plan fall by one at every step that does not end the run. -/
theorem Running.run_ends {s : State} (hs : Running s) :
    ∃ (k : Nat) (t : State), k ≤ s.planLen.toNat - s.pc.toNat + 1 ∧ Host.Core.run core k s = .next t ∧ t.done = true := by
  obtain ⟨t, hstep, hdone | ⟨ht, hpc, hnext, hlen⟩⟩ := hs.step_next
  · exact ⟨1, t, by omega, run_of_step 0 hstep, hdone⟩
  · have hlt : s.pc.toNat < s.planLen.toNat := hpc
    have hpc' : t.pc.toNat = s.pc.toNat + 1 := by rw [hnext]; bv_omega
    obtain ⟨k, u, hk, hrun, hu⟩ := ht.run_ends
    rw [hlen, hpc'] at hk
    exact ⟨k + 1, u, by omega, (run_of_step k hstep).trans hrun, hu⟩
termination_by s.planLen.toNat - s.pc.toNat
decreasing_by rw [hlen, hpc']; omega

end Sys2Proof.Safety
end

section
/-! The statements of 44_coordinator.md settled: the fetch and the decode, start, END, where `pc` advances, and how a run ends. -/

namespace Sys2Proof.Safety

open Sys2Proof.Machine

/-! ## O6, O7, O8: the fetch and the decode -/

/-- Settles O6: with no host input at `s` itself, past a `proceed` at `s` with that input used up. -/
theorem stepRunsDecodedInstruction : Obligations.StepRunsDecodedInstruction :=
  fun _ _ hrun hpc hi =>
    ⟨fun hhost => step_of_decode hrun hhost hpc hi, fun _ hhost => step_of_proceed_decode hrun hhost hpc hi⟩

/-- Settles O7: past the plan's end the fetch raises; the command's bytes are the three words'. -/
theorem fetchReadsThreeWordsOrOverruns : Obligations.FetchReadsThreeWordsOrOverruns := by
  rintro s ⟨hrun, hhost⟩
  exact ⟨fun hend => ⟨_, step_of_overrun hrun hhost (BitVec.not_lt.2 hend), rfl⟩, fun _ => decode_fetch s⟩

/-- Settles O8: the fetched bytes decode as the command they are the bytes of. -/
theorem undecodableCommandIsIllegal : Obligations.UndecodableCommandIsIllegal := by
  rintro s k ⟨hrun, hhost⟩ hpc hfetch
  have hdecode : decode s.fetch = decodeCommand k := hfetch ▸ decode_bytesOfCommand k
  refine ⟨fun i hi => step_of_decode hrun hhost hpc (hdecode.trans hi), fun hne => ?_⟩
  obtain ⟨r, hr⟩ := decode_error_of_ne_ok fun i hi => hne i (hdecode.symm.trans hi)
  exact ⟨_, step_of_decode_error hrun hhost hpc hr, rfl⟩

/-! ## O10, O11, O12: start, reset and the final states -/

/-- Settles O10: a step from a terminal state is none of a run and no start; every other state has the step named. -/
theorem terminalStatesAreFinal : Obligations.TerminalStatesAreFinal := by
  refine ⟨fun s hend => ⟨?_, fun t h => ?_⟩, fun s hs => ⟨?_, ?_⟩, fun s ctx rest hidle hl hhost => ⟨?_, ?_⟩,
    fun s x rest hhost => ⟨_, step_of_launch hhost⟩⟩
  · obtain hok | hfail := hend
    · simp [State.done, hok]
    · simp [State.done, hfail]
  · obtain ⟨hreset, -⟩ | ⟨x, hlaunch, -⟩ | ⟨hidle, -⟩ | ⟨hrun, -⟩ := step_progress h
    · exact .inl hreset
    · exact .inr ⟨x, hlaunch⟩
    · simp [hidle] at hend
    · simp [hrun] at hend
  · simp [State.done, hs.1]
  · obtain ⟨t, ht, -⟩ := hs.step_next
    exact ⟨t, ht⟩
  · simp [State.done, hidle]
  · exact ⟨_, (step_of_start hhost).trans (start_of_launched (s := { s with host := rest }) hidle hl)⟩

/-- Settles O11: start keeps the values that an Idle block has from reset. -/
theorem startMovesIdleToRun : Obligations.StartMovesIdleToRun := by
  intro s ctx rest hfresh hidle hl hhost
  obtain ⟨-, hpc, hcause, hcap0, hcap1, -, -, hlane, hdom, hlog⟩ := hfresh hidle
  refine ⟨_, (step_of_start hhost).trans (start_of_launched (s := { s with host := rest }) hidle hl), rfl, hpc, hcause,
    fun l => ?_, fun d => ?_, fun idx => ?_, hlog⟩
  · simp [State.laneTaken, hlane]
  · simp [State.domTaken, hdom]
  · obtain rfl | rfl := bit_cases idx
    · exact hcap0
    · exact hcap1

/-- Settles O12: only a block reset and a launch lead to Idle, and a block reset keeps `launched` only where no run was. -/
theorem onlyResetReturnsToIdle : Obligations.OnlyResetReturnsToIdle := by
  refine ⟨fun s ctx rest hst hhost => ?_, fun s t h hidle => ?_, fun s ctx rest hidle hl hhost => ?_,
    fun s t h hlaunch hrun hidle => ?_⟩
  · exact (step_of_start hhost).trans (start_of_not_idle (s := { s with host := rest }) hst)
  · exact (step_to_idle h hidle).imp And.left fun ⟨x, hx, _⟩ => ⟨x, hx⟩
  · exact (step_of_start hhost).trans (start_of_not_launched (s := { s with host := rest }) hidle hl)
  · obtain ⟨-, rfl⟩ | ⟨x, hx, -⟩ := step_to_idle h hidle
    · obtain hst | hl := hrun
      · simp [hst]
      · simp [hl]
    · exact absurd hx (hlaunch x)

/-- Settles O49: Idle is entered by a block reset or a launch only, each of which leaves the reset values. -/
theorem stepKeepsIdleFresh : Obligations.StepKeepsIdleFresh := by
  intro s t _ h hidle
  obtain ⟨-, rfl⟩ | ⟨x, -, rfl⟩ := step_to_idle h hidle
  · exact blockAtReset_blockReset _
  · exact blockAtReset_launch x _

/-! ## O38, O39, O45: END and `pc` -/

/-- Settles O38: END's effect is its definition; of the commands with its opcode only K = 0x0F decodes, to END. -/
theorem endTerminatesWithSuccess : Obligations.EndTerminatesWithSuccess := by
  refine ⟨fun s => ⟨_, exec_endPlan s, rfl, rfl, rfl, (status_fields _).1⟩, ?_⟩
  intro s k hs hpc hfetch hop
  obtain ⟨hruns, hillegal⟩ := undecodableCommandIsIllegal s k hs hpc hfetch
  refine ⟨fun hk => hruns _ ?_, fun hk => hillegal fun i hi => hk (eq_of_decode_of_op_end hop hi)⟩
  rw [hk, ← encode_endPlan]
  exact (decode_bytesOfCommand _).symm.trans (decode_encodeBytes rfl)

/-- Settles O39: for a command by the three ways it ends, for a step by what it does to `st` and `pc`. -/
theorem pcAdvancesOnlyOnCompletion : Obligations.PcAdvancesOnlyOnCompletion := by
  refine ⟨fun i s t hrun h => ?_, fun s t h hno => ?_⟩
  · obtain ⟨hfail, hpc⟩ | ⟨rfl, rfl⟩ | ⟨hi, hst, hpc⟩ := (Effect.of_exec h).end_cases
    · exact .inr ⟨hpc, .inl hfail⟩
    · exact .inr ⟨rfl, .inr ⟨rfl, rfl⟩⟩
    · exact .inl ⟨hi, hpc, hst.trans hrun⟩
  · obtain ⟨hreset, -⟩ | ⟨x, hlaunch, -⟩ | ⟨-, rfl⟩ | ⟨hrun, ⟨-, hpc⟩ | ⟨-, -, rfl⟩ | ⟨-, hst, hpc⟩⟩ := step_progress h
    · exact absurd (.inl hreset) hno
    · exact absurd (.inr ⟨x, hlaunch⟩) hno
    · exact .inl rfl
    · exact .inl hpc
    · exact .inl rfl
    · exact .inr ⟨hpc, hrun, hst⟩

/-- Settles O45: of the steps named in `step_progress` only END's leads to DoneOk. -/
theorem successComesOnlyFromEnd : Obligations.SuccessComesOnlyFromEnd := by
  intro s t h hok
  obtain ⟨-, rfl⟩ | ⟨x, -, rfl⟩ | ⟨-, rfl⟩ | ⟨hrun, ⟨hfail, -⟩ | hend | ⟨-, hst, -⟩⟩ := step_progress h
  · cases hok
  · cases hok
  · cases hok
  · simp [hfail] at hok
  · exact ⟨hrun, hend⟩
  · simp [hst] at hok

/-! ## O55: every run ends -/

/-- Settles O55: by induction on the commands left in the plan. -/
theorem everyRunEnds : Obligations.EveryRunEnds :=
  fun _ hs => hs.run_ends

end Sys2Proof.Safety
end

section
/-! What a block reset, a launch and a fault leave (60_exceptions.md R179, R182, R196; 70_reset_and_hazards.md R200, R202): the
bytes of the cells that a launch draws, and for each way a command faults that the fault is precise. -/

namespace Sys2Proof.Machine

/-! ## The step at a block reset (R196, R202) -/

theorem step_of_reset {s : State} {rest : List HostInput} (h : s.host = .reset :: rest) :
    step s = .next (State.blockReset { s with host := rest }) := by
  simp only [step, State.nextMove, h]

/-! ## The bytes of a register's cell (R33) -/

section
variable {cfg : Params} {addr : Word} {k : Nat}

/-- A byte of the word at an aligned address belongs to the register there. -/
theorem wordBase_add (h : addr.toNat % 4 = 0) (hk : k < 4) :
    BitVec.ofNat 32 (addr.toNat + k - (addr.toNat + k) % 4) = addr := by
  rw [show addr.toNat + k - (addr.toNat + k) % 4 = addr.toNat by omega, BitVec.ofNat_toNat, BitVec.setWidth_eq]

theorem cellByte_of_masked (h : addr.toNat % 4 = 0) (hkind : regKindOf cfg addr = .masked) (hk : k < 2) :
    cellByte cfg (addr.toNat + k) = true := by
  have hlt := addr.isLt
  simp only [cellByte, wordBase_add h (show k < 4 by omega), hkind, Bool.and_eq_true, decide_eq_true_eq]
  omega

theorem cellByte_of_plain (h : addr.toNat % 4 = 0) (hkind : regKindOf cfg addr = .plain) (hk : k < 4) :
    cellByte cfg (addr.toNat + k) = true := by
  have hlt := addr.isLt
  simp only [cellByte, wordBase_add h hk, hkind, Bool.and_true, decide_eq_true_eq]
  omega

end

/-- A launch draws every byte of a cell (R200, R202). -/
theorem launch_mmioByte_of_cellByte {s : State} {a : Nat} (x : ExternalDraw) (h : cellByte s.cfg a = true) :
    (s.launch x).mmioByte a = sparseGet Config.unlistedByte x.mem a :=
  (launch_mmioByte x a s).trans (if_pos h)

/-! ## The fetch's own fault (R162) -/

/-- PLAN_OVERRUN is the fetch's fault and no command's. -/
theorem Effect.cause_ne_planOverrun {s t : State} {i : Instr} (h : Effect s i t) (hs : s.st ≠ .doneFail)
    (ht : t.st = .doneFail) : t.cause ≠ 7 := by
  cases h with
  | check _ c hc =>
    intro h7
    rw [show c.code = 7 from h7] at hc
    exact absurd hc (by decide)
  | idchkMismatch | busrdErr | buswrErr | laneselErr | domsetErr => simp [Cause.code]
  | endPlan => cases ht
  | _ => exact absurd (by simpa using ht) hs

end Sys2Proof.Machine

namespace Sys2Proof.Safety

open Sys2Proof.Machine

/-! ## Precise faults (R179, R182) -/

section
variable {runs runs' : Instr → Prop} {s t : State} {i : Instr}

/-- Only the command that faults may have its operand's entry changed, so naming more commands allows more. -/
theorem PreciseFault.mono (hruns : ∀ i, runs i → runs' i) (h : PreciseFault runs s t) : PreciseFault runs' s t := by
  obtain hcheck | hid | ⟨hcause, hevent, hpmic, hlane, hdom⟩ := h
  · exact .inl hcheck
  · exact .inr (.inl hid)
  · exact .inr (.inr ⟨hcause, hevent, fun r hr => hpmic r fun data hd => hr data (hruns _ hd),
      fun l hl => hlane l fun m hm => hl m (hruns _ hm), fun d hd => hdom d fun v hv => hd v (hruns _ hv)⟩)

/-- A fault raised before anything else is done leaves nothing else. -/
theorem PreciseFault.raise {c : Cause} (hc : c.code.toNat ∈ [5, 6, 7, 8, 9, 10]) : PreciseFault runs s (s.raise c) :=
  .inl ⟨hc, rfl⟩

/-- A fault of the primitive's answer leaves the call's event and the mirror entries that the command addressed. -/
theorem PreciseFault.of_err {u : State} {c : Cause} {e : Event} (hc : c.code.toNat ∈ [1, 3, 4]) (he : isErrEvent e = true)
    (hu : u = { s.asked.emit e with pmic := u.pmic, laneMode := u.laneMode, domLevel := u.domLevel })
    (hpmic : ∀ r, (∀ data, ¬ runs (.buswr s.cfg.pmicAddr r data)) → u.pmicReg r = s.pmicReg r)
    (hlane : ∀ l, (∀ m, ¬ runs (.lanesel l m)) → u.modeOf l = s.modeOf l)
    (hdom : ∀ d, (∀ v, ¬ runs (.domset d v)) → u.levelOf d = s.levelOf d) : PreciseFault runs s (u.raise c) := by
  refine .inr (.inr ⟨hc, ⟨e, he, ?_⟩, hpmic, hlane, hdom⟩)
  exact congrArg (State.raise c) hu

/-- Every way a command faults is precise. -/
theorem preciseFault_of_effect (h : Effect s i t) (hs : s.st ≠ .doneFail) (ht : t.st = .doneFail) :
    PreciseFault (fun j => j = i) s t := by
  cases h with
  | check _ c hc => exact .raise ((by decide : [5, 6, 8, 9, 10] ⊆ [5, 6, 7, 8, 9, 10]) hc)
  | idchkMismatch => exact .inr (.inl ⟨rfl, rfl⟩)
  | busrdErr => exact .of_err (by decide) rfl rfl (fun _ _ => rfl) (fun _ _ => rfl) fun _ _ => rfl
  | buswrErr dev r data left =>
    refine .of_err (by decide) rfl rfl (fun r' hr => ?_) (fun _ _ => rfl) fun _ _ => rfl
    rw [pmicReg_pmicDrawn, if_neg]
    · simp
    · rintro ⟨hdev, rfl⟩
      exact hr data (hdev ▸ rfl)
  | laneselErr l m _ _ _ left =>
    refine .of_err (by decide) rfl rfl (fun _ _ => rfl) (fun l' hl => ?_) fun _ _ => rfl
    rw [modeOf_setMode, if_neg]
    · simp
    · rintro rfl
      exact hl m rfl
  | domsetErr d v _ left =>
    refine .of_err (by decide) rfl rfl (fun _ _ => rfl) (fun _ _ => rfl) fun d' hd => ?_
    rw [levelOf_setLevel, if_neg]
    · simp
    · rintro rfl
      exact hd v rfl
  | endPlan => cases ht
  | _ => exact absurd (by simpa using ht) hs

end

end Sys2Proof.Safety
end

section
/-! The statements of 60_exceptions.md settled: what a block reset and a launch leave, and that every fault is precise. -/

namespace Sys2Proof.Safety

open Sys2Proof.Machine

/-! ## O13: block reset and launch -/

/-- Settles O13: a block reset writes no mirror, and a launch draws every entry a mirror has a location for. -/
theorem blockResetLeavesExternalState : Obligations.BlockResetLeavesExternalState := by
  refine ⟨fun s rest hhost => ⟨_, step_of_reset hhost, blockAtReset_blockReset _, ?_⟩,
    fun s x rest hhost => ⟨_, step_of_launch hhost, blockAtReset_launch x _, ?_⟩⟩
  · exact ⟨rfl, fun _ => rfl, fun _ => rfl, fun _ _ => rfl, fun _ => rfl, fun _ => rfl, rfl, rfl, rfl⟩
  · exact ⟨rfl, rfl,
      fun _ h hkind _ hk => launch_mmioByte_of_cellByte x (cellByte_of_masked h hkind hk),
      fun _ h hkind _ hk => launch_mmioByte_of_cellByte x (cellByte_of_plain h hkind hk),
      fun r => launch_pmicReg x r _, fun b p => launch_pin x b p _, fun l => launch_modeOf x l _,
      fun d => launch_levelOf x d _, rfl, rfl, rfl⟩

/-! ## O40: precise faults -/

/-- Settles O40: a command faults in one of `Effect`'s ways; a step faults at the fetch, at the decode or by its command. -/
theorem faultsArePrecise : Obligations.FaultsArePrecise := by
  refine ⟨fun i s t hrun h ht => ?_, fun s t h ht => ?_⟩
  · have heff := Effect.of_exec h
    have hs : s.st ≠ .doneFail := by simp [hrun]
    exact ⟨heff.cause_ne_planOverrun hs ht, preciseFault_of_effect heff hs ht⟩
  obtain ⟨rest, rfl, ⟨-, rfl⟩ | ⟨x, -, rfl⟩ | ⟨-, -, -, rfl⟩ | ⟨-, hrun, u, rfl, hfetch⟩⟩ := step_cases h
  · cases ht
  · cases ht
  · cases ht
  · obtain ⟨hpc, rfl⟩ | ⟨hpc, -, rfl⟩ | ⟨hpc, i, hi, hexec⟩ := hfetch
    · exact ⟨hrun, .raise (by decide), fun _ => rfl, fun hlt => absurd hlt hpc⟩
    · exact ⟨hrun, .raise (by decide), fun hend => absurd hpc (BitVec.not_lt.2 hend), fun _ _ => rfl⟩
    · have hprecise := preciseFault_of_effect (.of_exec hexec) (by simp [hrun]) ht
      refine ⟨hrun, hprecise.mono ?_, fun hend => absurd hpc (BitVec.not_lt.2 hend), fun _ hno => absurd hi (hno i)⟩
      rintro _ rfl
      exact ⟨hpc, hi⟩

end Sys2Proof.Safety
end

section
/-! Admission at one pc (70_reset_and_hazards.md R206, R213, R215): which check a refusal names, what an admitted plan says of the
command at each pc, and how that command can fault. -/

namespace Sys2Proof.Machine

/-! ## The refusal (R206) -/

/-- The pc that a named check gives. -/
def checkAnswer (cfg : Params) (plan : List (Option Instr)) : Check → Option Nat
  | .laneBeforePins => chkLaneBeforePins cfg plan
  | .regulatorOrder => chkRegulatorOrder cfg plan
  | .railsBeforeClocks => chkRailsBeforeClocks cfg plan
  | .gpioOrder => chkGpioOrder cfg plan
  | .identifyFirst => chkIdentifyFirst cfg plan
  | .once => chkOnce cfg plan
  | .mwrTarget => chkMwrTarget cfg plan
  | .idReadonly => chkIdReadonly cfg plan
  | .wellformed => chkWellformed cfg plan
  | .busPins => chkBusPins cfg plan

/-- R206: the first of the ten checks, in their order, that gives a pc. -/
theorem admission_eq_findSome (cfg : Params) (plan : List (Option Instr)) :
    admission cfg plan
      = [.laneBeforePins, .regulatorOrder, .railsBeforeClocks, .gpioOrder, .identifyFirst, .once, .mwrTarget, .idReadonly,
          .wellformed, .busPins].findSome? fun check => (checkAnswer cfg plan check).map (Prod.mk check) := rfl

/-- The pc of a refusal is the one that the check it names gives. -/
theorem checkAnswer_of_admission {cfg : Params} {plan : List (Option Instr)} {check : Check} {pc : Nat}
    (h : admission cfg plan = some (check, pc)) : checkAnswer cfg plan check = some pc := by
  rw [admission_eq_findSome] at h
  obtain ⟨named, -, hsome⟩ := List.exists_of_findSome?_eq_some h
  obtain ⟨_, hpc, heq⟩ := Option.map_eq_some_iff.1 hsome
  cases heq
  exact hpc

theorem admitted_eq_false_iff (s : State) :
    s.admitted = false ↔ ∃ check pc, admission s.cfg s.planText = some (check, pc) := by
  rw [← Bool.not_eq_true, admitted_iff, ← ne_eq, Option.ne_none_iff_exists']
  exact Prod.exists

theorem launchRun_of_refused {s : State} {check : Check} {pc : Nat} (h : admission s.cfg s.planText = some (check, pc)) :
    s.launchRun = .refused (.notAdmitted check pc) := by
  simp only [State.launchRun, h]

theorem launchRun_of_admitted {s : State} (h : s.admitted = true) : s.launchRun = .next { s with host := [.start 0] } := by
  simp only [State.launchRun, (admitted_iff s).1 h]

/-! ## The admission reads the configuration only (R206) -/

theorem admitted_congr {s t : State} (hrom : t.planRom = s.planRom) (hlen : t.planLen = s.planLen) (hcfg : t.cfg = s.cfg) :
    t.admitted = s.admitted := by
  simp only [State.admitted, State.planText, State.commandBytes, State.romByte, hrom, hlen, hcfg]

/-! ## The command at a pc of an admitted plan -/

/-- R213 on one command. -/
def MwrTargetOk (cfg : Params) : Instr → Prop
  | .mwr addr _ _ => regKindOf cfg addr ≠ .plain ∧ aligned addr = true
  | .wr32 addr _ => aligned addr = true
  | _ => True

theorem chkMwrTarget_eq_none {cfg : Params} {plan : List (Option Instr)} :
    chkMwrTarget cfg plan = none ↔ ∀ k < plan.length, ∀ i, commandAt plan k = some i → MwrTargetOk cfg i := by
  rw [chkMwrTarget, firstBad_eq_none]
  refine forall₂_congr fun k _ => ?_
  cases commandAt plan k with
  | none => simp
  | some i => cases i <;> simp [MwrTargetOk]

/-- What the decoder, R213 and R215 say of one command, whatever the plan it stands in. -/
structure StaticallySound (cfg : Params) (i : Instr) : Prop where
  wf : i.wf = true
  inRange : commandInRange cfg i = true
  target : MwrTargetOk cfg i

theorem wf_of_decode_fetch {s : State} {i : Instr} (h : decode s.fetch = .ok i) : i.wf = true := by
  obtain ⟨-, hreserved, hi⟩ := decodeCommand_eq_ok_iff.1 (decode_fetch s ▸ h)
  exact wf_of_not_reserved hreserved hi

theorem decode_of_commandAt_planText {s : State} {k : Nat} {i : Instr} (hk : k < s.planLen.toNat)
    (h : commandAt s.planText k = some i) : decode (s.commandBytes k) = .ok i := by
  rw [commandAt_planText hk] at h
  cases hd : decode (s.commandBytes k) with
  | error r => simp [hd] at h
  | ok j => simpa [hd] using h

/-- R213, R215: within an admitted plan every fetched command decodes and is sound, and the last one alone is END. -/
theorem command_of_admitted {s : State} (h : s.admitted = true) (hpc : s.pc < s.planLen) :
    ∃ i, decode s.fetch = .ok i ∧ StaticallySound s.cfg i ∧ (i = .endPlan ↔ s.pc.toNat + 1 = s.planLen.toNat) := by
  obtain ⟨-, -, -, -, -, -, htarget, -, hwellformed, -⟩ := admission_eq_none.1 ((admitted_iff s).1 h)
  have hk : s.pc.toNat < s.planText.length := by rw [length_planText]; exact hpc
  obtain ⟨i, hi, -, hrange, hend⟩ := wellformed_at hwellformed hk
  have hdecode : decode s.fetch = .ok i := decode_of_commandAt_planText hpc hi
  rw [length_planText] at hend
  exact ⟨i, hdecode, ⟨wf_of_decode_fetch hdecode, hrange, chkMwrTarget_eq_none.1 htarget _ hk i hi⟩, hend⟩

/-- An admitted plan has a command (R215). -/
theorem planLen_pos_of_admitted {s : State} (h : s.admitted = true) : 0 < s.planLen.toNat := by
  obtain ⟨-, -, -, -, -, -, -, -, hwellformed, -⟩ := admission_eq_none.1 ((admitted_iff s).1 h)
  rw [← length_planText]
  by_contra hzero
  simp [chkWellformed, Nat.eq_zero_of_not_pos hzero] at hwellformed

/-- A command that leaves the block in Run is not the plan's last, so the next pc is in the plan too (R161, R165). -/
theorem Effect.pc_lt_of_run {s t : State} {i : Instr} (h : Effect s i t) (hpc : s.pc < s.planLen)
    (hend : i = .endPlan ↔ s.pc.toNat + 1 = s.planLen.toNat) (ht : t.st = .run) : t.pc < s.planLen := by
  obtain ⟨hfail, -⟩ | ⟨-, rfl⟩ | ⟨hne, -, hnext⟩ := h.end_cases
  · simp [hfail] at ht
  · cases ht
  · have hlast : s.pc.toNat + 1 ≠ s.planLen.toNat := fun e => hne (hend.2 e)
    rw [hnext]
    bv_omega

/-! ## The faults of a sound command -/

/-- The causes a plan's text alone decides: ILLEGAL_COMMAND, MISALIGNED and PLAN_OVERRUN. -/
def Cause.static : Cause → Bool
  | .illegalCommand => true
  | .misaligned => true
  | .planOverrun => true
  | _ => false

theorem Cause.code_of_not_static {c : Cause} (h : c.static = false) : c.code ≠ 5 ∧ c.code ≠ 6 ∧ c.code ≠ 7 := by
  revert h
  cases c <;> decide

/-- A sound command that faults does so at a check of the run's own state or on the primitive's answer (R179). -/
theorem exec_fault_of_sound {i : Instr} {s t : State} (hi : StaticallySound s.cfg i) (hs : s.st ≠ .doneFail)
    (h : exec i s = .next t) (ht : t.st = .doneFail) : ∃ c : Cause, c.static = false ∧ t.cause = c.code := by
  obtain ⟨hwf, hrange, htarget⟩ := hi
  cases i with
  | mwr addr =>
    cases h
    obtain ⟨-, haligned⟩ := htarget
    rw [storeWord_of_aligned _ _ (aligned_iff.1 haligned)] at ht
    exact absurd ht hs
  | wr32 addr =>
    cases h
    rw [storeWord_of_aligned _ _ (aligned_iff.1 htarget)] at ht
    exact absurd ht hs
  | domset d v =>
    cases h
    obtain ⟨-, e⟩ | ⟨-, b, -, e⟩ | ⟨-, b, -, e⟩ := domainSet_cases d v s <;> rw [e] at ht ⊢
    · exact ⟨.domainReset, rfl, rfl⟩
    · exact absurd ht hs
    · exact ⟨.domainError, rfl, rfl⟩
  | busrd dev r j =>
    cases h
    obtain ⟨b, -, e⟩ | ⟨b, -, e⟩ := busReadInto_cases dev r j s <;> rw [e] at ht ⊢
    · exact absurd ht hs
    · exact ⟨.busError, rfl, rfl⟩
  | buswr dev r d =>
    cases h
    obtain ⟨b, -, e⟩ | ⟨b, -, e⟩ := busWriteTo_cases dev r d s <;> rw [e] at ht ⊢
    · exact absurd ht hs
    · exact ⟨.busError, rfl, rfl⟩
  | idchk n =>
    cases h
    obtain ⟨-, e⟩ | ⟨-, -, -, e⟩ | ⟨-, -, -, e⟩ := identityCheck_cases n s <;> rw [e] at ht ⊢
    · exact ⟨.unwrittenCapture, rfl, rfl⟩
    · exact absurd ht hs
    · exact ⟨.idMismatch, rfl, rfl⟩
  | lanesel l m =>
    cases h
    have hmode : m ≠ 3 := by simpa [Instr.wf, LaneMode.legal] using hwf
    have hlane : l.toNat < s.cfg.numLanes := of_decide_eq_true hrange
    obtain ⟨hbad, -⟩ | ⟨-, -, -, e⟩ | ⟨-, -, -, b, -, e⟩ | ⟨-, -, -, b, -, e⟩ := laneSelect_cases l m s
    · exact absurd hbad (not_or.2 ⟨hmode, Nat.not_le.2 hlane⟩)
    all_goals rw [e] at ht ⊢
    · exact ⟨.laneReselect, rfl, rfl⟩
    · exact absurd ht hs
    · exact ⟨.laneError, rfl, rfl⟩
  | pingrp g =>
    cases h
    obtain ⟨ds, -, -, e⟩ | ⟨hnone | ⟨ds, hg, hw⟩, -⟩ := pinGroup_cases g s
    · rw [e] at ht
      exact absurd ht hs
    · simp [commandInRange, show groupOf s.cfg g = none from hnone] at hrange
    · simp [commandInRange, show groupOf s.cfg g = some ds from hg, hw] at hrange
  | gpiodir b p | gpiowr b p =>
    cases h
    rw [gpio_of_pinInRange _ _ hrange] at ht
    exact absurd ht hs
  | endPlan => cases h; cases ht

end Sys2Proof.Machine
end

section
/-! The admission checks (70_reset_and_hazards.md R206 to R216) on a plan whose commands all decode: the order of its commands where
the plan is cut in two, and how often a pattern occurs in it. -/

namespace Sys2Proof.Machine

section
variable {ps a b : List Instr} {i : Nat} {c : Instr} {f g : Instr → Bool}

/-! ## A plan whose commands all decode -/

@[simp] theorem commandAt_map_some (ps : List Instr) (i : Nat) : commandAt (ps.map some) i = ps[i]? := by
  cases h : ps[i]? <;> simp [commandAt, h]

@[simp] theorem isAt_map_some (ps : List Instr) (i : Nat) (f : Instr → Bool) :
    isAt (ps.map some) i f = ps[i]?.any f := by
  simp [isAt]

theorem hasBefore_map_some (ps : List Instr) (i : Nat) (f : Instr → Bool) :
    hasBefore (ps.map some) i f = (ps.take i).any f := by
  simp [hasBefore, ← List.map_take, List.any_map, Function.comp_def]

theorem hasFrom_map_some (ps : List Instr) (i : Nat) (f : Instr → Bool) :
    hasFrom (ps.map some) i f = (ps.drop i).any f := by
  simp [hasFrom, ← List.map_drop, List.any_map, Function.comp_def]

/-- A check passes where it finds nothing bad at any command. -/
theorem firstBad_map_some {bad : Nat → Bool} (h : ∀ i c, ps[i]? = some c → bad i = false) :
    firstBad (ps.map some).length bad = none := by
  rw [firstBad_eq_none, List.length_map]
  exact fun i hi => h i _ (List.getElem?_eq_getElem hi)

/-! ## A plan cut in two -/

/-- A command of `a ++ b` stands in `a`, or in `b` after all of `a`. -/
theorem getElem?_append_cases (h : (a ++ b)[i]? = some c) : (i < a.length ∧ c ∈ a) ∨ (a.length ≤ i ∧ c ∈ b) := by
  by_cases hi : i < a.length
  · rw [List.getElem?_append_left hi] at h
    exact .inl ⟨hi, List.mem_of_getElem? h⟩
  · rw [List.getElem?_append_right (by omega)] at h
    exact .inr ⟨by omega, List.mem_of_getElem? h⟩

/-- No `f` command has a `g` command before it or at it, where the `f` commands stand in `a` and the `g` commands in `b`. -/
theorem isAt_and_hasBefore_append (hg : ∀ x ∈ a, g x = false) (hf : ∀ x ∈ b, f x = false) {k : Nat} (hk : k ≤ i + 1) :
    (isAt ((a ++ b).map some) i f && hasBefore ((a ++ b).map some) k g) = false := by
  rw [isAt_map_some, hasBefore_map_some]
  cases hc : (a ++ b)[i]? with
  | none => rfl
  | some c =>
    obtain ⟨hi, -⟩ | ⟨-, hmem⟩ := getElem?_append_cases hc
    · rw [List.take_append_of_le_length (by omega), List.any_eq_false.2 fun x hx => by simp [hg x (List.mem_of_mem_take hx)],
        Bool.and_false]
    · simp [hf c hmem]

/-- No `f` command has a `g` command after it or at it, where the `g` commands stand in `a` and the `f` commands in `b`. -/
theorem isAt_and_hasFrom_append (hf : ∀ x ∈ a, f x = false) (hg : ∀ x ∈ b, g x = false) :
    (isAt ((a ++ b).map some) i f && hasFrom ((a ++ b).map some) i g) = false := by
  rw [isAt_map_some, hasFrom_map_some]
  cases hc : (a ++ b)[i]? with
  | none => rfl
  | some c =>
    obtain ⟨-, hmem⟩ | ⟨hi, -⟩ := getElem?_append_cases hc
    · simp [hf c hmem]
    · rw [List.drop_append, List.drop_of_length_le hi, List.nil_append,
        List.any_eq_false.2 fun x hx => by simp [hg x (List.mem_of_mem_drop hx)], Bool.and_false]

theorem commandAt_append_right (a b : List Instr) (j : Nat) : commandAt ((a ++ b).map some) (a.length + j) = b[j]? := by
  rw [commandAt_map_some, List.getElem?_append_right (Nat.le_add_right _ _), Nat.add_sub_cancel_left]

/-- A command after all of `a` has a `g` command before it, where one stands in `a`. -/
theorem hasBefore_append (hi : a.length ≤ i) (hg : ∃ x ∈ a, g x = true) : hasBefore ((a ++ b).map some) i g = true := by
  obtain ⟨x, hx, hgx⟩ := hg
  rw [hasBefore_map_some, List.any_eq_true]
  exact ⟨x, by rw [List.take_append, List.take_of_length_le hi]; exact List.mem_append_left _ hx, hgx⟩

/-- Where no two commands are related, none has a related command before it. -/
theorem hasBefore_of_pairwise {r : Instr → Instr → Bool} (h : ps.Pairwise fun x y => r y x = false) (hc : ps[i]? = some c) :
    hasBefore (ps.map some) i (r c) = false := by
  obtain ⟨hi, rfl⟩ := List.getElem?_eq_some_iff.1 hc
  rw [hasBefore_map_some, List.any_eq_false]
  intro x hx
  obtain ⟨j, hj, rfl⟩ := List.mem_take_iff_getElem.1 hx
  simp [List.pairwise_iff_getElem.1 h j i (by omega) hi (by omega)]

end

/-! ## Counting a pattern (R211, R212) -/

@[simp] theorem countSeq_nil (l : List (Option Instr)) : countSeq [] l = 1 := by
  cases l <;> rfl

/-- Commands without the pattern's first one before a plan leave its count. -/
theorem countSeq_append_of_not_mem {p : Instr} {pattern : List Instr} {l : List (Option Instr)} (h : some p ∉ l)
    (m : List (Option Instr)) : countSeq (p :: pattern) (l ++ m) = countSeq (p :: pattern) m := by
  induction l with
  | nil => rfl
  | cons c l ih =>
    obtain ⟨hc, hl⟩ : ¬ some p = c ∧ some p ∉ l := by simpa using h
    rw [List.cons_append, countSeq, ih hl, if_neg (Ne.symm hc), Nat.add_zero]

theorem countSeq_eq_zero {p : Instr} {pattern : List Instr} {l : List (Option Instr)} (h : some p ∉ l) :
    countSeq (p :: pattern) l = 0 := by
  simpa [countSeq] using countSeq_append_of_not_mem (pattern := pattern) h []

/-- A pattern occurs in a plan in every way in which it occurs in a part that the plan begins with. -/
theorem countSeq_le_of_prefix (pattern : List Instr) {l n : List (Option Instr)} (h : l <+: n) :
    countSeq pattern l ≤ countSeq pattern n := by
  obtain ⟨m, rfl⟩ := h
  induction l generalizing pattern with
  | nil => cases pattern <;> simp [countSeq]
  | cons c l ih =>
    cases pattern with
    | nil => simp
    | cons p ps =>
      have hrest := ih (p :: ps)
      have hnext := ih ps
      simp only [List.cons_append, countSeq]
      split <;> omega

/-- Three different commands in a row, and none of them elsewhere, occur in one way. -/
theorem countSeq_eq_one {p q r : Instr} (hpq : p ≠ q) (hpr : p ≠ r) (hqr : q ≠ r) {l m : List Instr} (hl : p ∉ l)
    (hp : p ∉ m) (hq : q ∉ m) (hr : r ∉ m) : countSeq [p, q, r] ((l ++ [p, q, r] ++ m).map some) = 1 := by
  rw [List.append_assoc, List.map_append, countSeq_append_of_not_mem (by simpa using hl)]
  simp [countSeq, countSeq_eq_zero, hpq.symm, hpr.symm, hqr.symm, hp, hq, hr]

/-- An identify sequence between commands of other kinds occurs in one way. -/
theorem countSeq_identifySeq {dev : BitVec 7} {name : BitVec 12} {a b : List Instr}
    (ha : ∀ c ∈ a, c ∉ identifySeq dev name) (hb : ∀ c ∈ b, c ∉ identifySeq dev name) :
    countSeq (identifySeq dev name) ((a ++ identifySeq dev name ++ b).map some) = 1 := by
  have hout : ∀ p ∈ identifySeq dev name, p ∉ a ∧ p ∉ b := fun p hp => ⟨(ha p · hp), (hb p · hp)⟩
  simp only [identifySeq, List.forall_mem_cons] at hout ⊢
  obtain ⟨⟨ha, hhi⟩, ⟨-, hlo⟩, ⟨-, hid⟩, -⟩ := hout
  exact countSeq_eq_one (by simp) (by simp) (by simp) ha hhi hlo hid

end Sys2Proof.Machine
end

section
/-! The board plan (44_coordinator.md R169, R170) against the admission checks: its parts, and each check on it. -/

namespace Sys2Proof.Machine

/-! ## The constraints (R217) -/

/-- R217's constraints on the parameters, each by name. -/
structure BoardConstrained (cfg : Params) : Prop where
  domains : (cfg.domains.toList.map (fun d => d.1)).Nodup
  pllKind : regKindOf cfg cfg.pll.addr ≠ .plain
  iomuxKind : regKindOf cfg cfg.iomux.addr ≠ .plain
  pllAligned : aligned cfg.pll.addr = true
  iomuxAligned : aligned cfg.iomux.addr = true
  clkAligned : ∀ c ∈ cfg.clkGate.toList, aligned c.1 = true
  regs : ((cfg.trim.toList ++ cfg.enable.toList ++ cfg.swcfg.toList).map (fun p => p.1)).Nodup
  noIdReg : ∀ p ∈ cfg.trim.toList ++ cfg.enable.toList ++ cfg.swcfg.toList, isIdReg p.1 = false
  lanesPcie3x2 : lanesOf cfg groupPcie3x2 = [2]
  lanesPcie2 : lanesOf cfg groupPcie2 = [2]
  lanesSd : lanesOf cfg groupSd = []
  lanesEmmc : lanesOf cfg groupEmmc = []
  i2cPins : cfg.premI2cPins = true
  groups : ∀ g ∈ [groupSd, groupEmmc, groupPcie3x2, groupPcie2], commandInRange cfg (.pingrp g) = true
  clkReqA : pinInRange cfg cfg.clkReqA.1 cfg.clkReqA.2 = true
  clkReqB : pinInRange cfg cfg.clkReqB.1 cfg.clkReqB.2 = true

theorem boardConstrained_of_boardConstraints {cfg : Params} (h : boardConstraints cfg = true) : BoardConstrained cfg := by
  simp only [boardConstraints, Bool.and_eq_true, decide_eq_true_eq, bne_iff_ne, beq_iff_eq, List.all_eq_true,
    Bool.not_eq_true', and_assoc] at h
  obtain ⟨hdomains, hpll, hiomux, hpllAligned, hiomuxAligned, hclk, hregs, hid, h3x2, h2, hsd, hemmc, -, hi2c, hgroups, ha,
    hb⟩ := h
  exact ⟨hdomains, hpll, hiomux, hpllAligned, hiomuxAligned, hclk, hregs, hid, h3x2, h2, hsd, hemmc, hi2c, hgroups, ha, hb⟩

/-! ## The parts of the plan (R169, R170) -/

/-- Commands 0 to 6: the seven DOMSETs. -/
def domainSets (cfg : Params) : List Instr := cfg.domains.toList.map fun d => .domset d.1 d.2

/-- Commands 0 to 9: up to the identification. -/
def identified (cfg : Params) : List Instr := domainSets cfg ++ identifySeq cfg.pmicAddr pmicExpectedName

/-- Commands 10 to 23: the regulator's registers. -/
def regulatorWrites (cfg : Params) : List Instr :=
  regWrites cfg cfg.trim.toList ++ regWrites cfg cfg.enable.toList ++ regWrites cfg cfg.swcfg.toList

theorem regulatorWrites_eq_map (cfg : Params) :
    regulatorWrites cfg
      = (cfg.trim.toList ++ cfg.enable.toList ++ cfg.swcfg.toList).map fun p => .buswr cfg.pmicAddr p.1 p.2 := by
  simp [regulatorWrites, regWrites]

/-- Commands 24 to 31: up to the last LANESEL, P_PCIE_LANE_MODE's. -/
def clocksAndLanes (cfg : Params) : List Instr :=
  cfg.clkGate.toList.map (fun c => .wr32 c.1 c.2)
    ++ [maskedConstWrite cfg.pll, .lanesel 0 LaneMode.usb3, .lanesel 1 LaneMode.usb3, .pingrp groupSd, .pingrp groupEmmc,
      .lanesel 2 cfg.pcieLaneMode]

/-- Commands 32 and 33. -/
def pcieGroups : List Instr := [.pingrp groupPcie2, .pingrp groupPcie3x2]

/-- Commands 34 to 38. -/
def clockRequests (cfg : Params) : List Instr :=
  gpioOutHigh cfg.clkReqA ++ gpioOutHigh cfg.clkReqB ++ [maskedConstWrite cfg.iomux]

/-- Commands 24 to 39: what follows the last regulator write. -/
def afterRails (cfg : Params) : List Instr := clocksAndLanes cfg ++ pcieGroups ++ clockRequests cfg ++ [.endPlan]

theorem boardPlan_eq (cfg : Params) : boardPlan cfg = identified cfg ++ regulatorWrites cfg ++ afterRails cfg := by
  simp [boardPlan, identified, domainSets, regulatorWrites, afterRails, clocksAndLanes, pcieBringup, pcieGroups,
    clockRequests]

theorem length_boardPlan (cfg : Params) : (boardPlan cfg).length = 40 := by
  simp [boardPlan, identifySeq, regWrites, pcieBringup, gpioOutHigh]

variable {cfg : Params}

/-- A property of every command of the board plan, by kind of command. -/
theorem forall_mem_boardPlan {P : Instr → Prop} :
    (∀ c ∈ boardPlan cfg, P c) ↔
      (∀ d ∈ cfg.domains.toList, P (.domset d.1 d.2))
      ∧ (∀ c ∈ identifySeq cfg.pmicAddr pmicExpectedName, P c)
      ∧ (∀ p ∈ cfg.trim.toList ++ cfg.enable.toList ++ cfg.swcfg.toList, P (.buswr cfg.pmicAddr p.1 p.2))
      ∧ (∀ c ∈ cfg.clkGate.toList, P (.wr32 c.1 c.2))
      ∧ (∀ w ∈ [cfg.pll, cfg.iomux], P (maskedConstWrite w))
      ∧ (∀ l ∈ [(0, LaneMode.usb3), (1, LaneMode.usb3), (2, cfg.pcieLaneMode)], P (.lanesel l.1 l.2))
      ∧ (∀ g ∈ [groupSd, groupEmmc, groupPcie3x2, groupPcie2], P (.pingrp g))
      ∧ (∀ p ∈ [cfg.clkReqA, cfg.clkReqB], ∀ c ∈ gpioOutHigh p, P c)
      ∧ P .endPlan := by
  simp only [boardPlan, regWrites, pcieBringup, List.forall_mem_append, List.forall_mem_map, List.forall_mem_cons]
  tauto

/-! ## The kinds of command in each part -/

/-- The kinds of command that bring the rails up: DOMSET, BUSRD, BUSWR and IDCHK. -/
def isRailCommand : Instr → Bool
  | .domset _ _ => true
  | .busrd _ _ _ => true
  | .buswr _ _ _ => true
  | .idchk _ => true
  | _ => false

/-- GPIODIR or GPIOWR, of any pin. -/
def isGpio : Instr → Bool
  | .gpiodir _ _ _ => true
  | .gpiowr _ _ _ => true
  | _ => false

theorem isRailCommand_identified : ∀ c ∈ identified cfg, isRailCommand c = true := by
  simp only [identified, domainSets, identifySeq, List.forall_mem_append, List.forall_mem_map, List.forall_mem_cons]
  simp [isRailCommand]

theorem isRailCommand_regulatorWrites : ∀ c ∈ regulatorWrites cfg, isRailCommand c = true := by
  simp only [regulatorWrites, regWrites, List.forall_mem_append, List.forall_mem_map]
  simp [isRailCommand]

theorem isRailCommand_afterRails : ∀ c ∈ afterRails cfg, isRailCommand c = false := by
  simp only [afterRails, clocksAndLanes, pcieGroups, clockRequests, gpioOutHigh, maskedConstWrite, List.forall_mem_append,
    List.forall_mem_map, List.forall_mem_cons]
  simp [isRailCommand]

/-- The rails come before everything else: 24 commands that are rail commands, then 16 that are not. -/
theorem isRailCommand_rails : ∀ c ∈ identified cfg ++ regulatorWrites cfg, isRailCommand c = true :=
  List.forall_mem_append.2 ⟨isRailCommand_identified, isRailCommand_regulatorWrites⟩

section
variable {c : Instr}

theorem isPmicWrite_of_not_rail (f : Byte → Bool) (h : isRailCommand c = false) : isPmicWrite cfg f c = false := by
  cases c with
  | buswr => cases h
  | _ => rfl

theorem isClockWrite_of_rail (h : isRailCommand c = true) : isClockWrite cfg c = false := by
  cases c with
  | mwr | wr32 => cases h
  | _ => rfl

theorem isGpio_of_rail (h : isRailCommand c = true) : isGpio c = false := by
  cases c with
  | gpiodir | gpiowr => cases h
  | _ => rfl

theorem isClkReqGpio_of_not_gpio (h : isGpio c = false) : isClkReqGpio cfg c = false := by
  cases c with
  | gpiodir | gpiowr => cases h
  | _ => rfl

theorem isDomset_of_not_rail (h : isRailCommand c = false) : isDomset c = false := by
  cases c with
  | domset => cases h
  | _ => rfl

end

theorem isPmicWrite_identified (f : Byte → Bool) : ∀ c ∈ identified cfg, isPmicWrite cfg f c = false := by
  simp only [identified, domainSets, identifySeq, List.forall_mem_append, List.forall_mem_map, List.forall_mem_cons]
  simp [isPmicWrite]

theorem isPmicWrite_regWrites {f : Byte → Bool} {l : List (Byte × Byte)} :
    (∀ c ∈ regWrites cfg l, isPmicWrite cfg f c = false) ↔ ∀ p ∈ l, f p.1 = false := by
  rw [regWrites, List.forall_mem_map]
  simp [isPmicWrite]

theorem isPmicWrite_afterRails (f : Byte → Bool) : ∀ c ∈ afterRails cfg, isPmicWrite cfg f c = false :=
  fun c hc => isPmicWrite_of_not_rail f (isRailCommand_afterRails c hc)

/-! ## The checks on single commands (R213, R214) -/

theorem chkMwrTarget_boardPlan (h : BoardConstrained cfg) : chkMwrTarget cfg ((boardPlan cfg).map some) = none := by
  have hall : ∀ c ∈ boardPlan cfg, MwrTargetOk cfg c := by
    simp only [forall_mem_boardPlan, identifySeq, gpioOutHigh, maskedConstWrite, MwrTargetOk]
    simpa [h.pllKind, h.iomuxKind, h.pllAligned, h.iomuxAligned] using h.clkAligned
  exact chkMwrTarget_eq_none.2 fun k _ c hc => hall c (List.mem_of_getElem? (commandAt_map_some _ k ▸ hc))

theorem chkIdReadonly_boardPlan (h : BoardConstrained cfg) : chkIdReadonly cfg ((boardPlan cfg).map some) = none := by
  have hall : ∀ c ∈ boardPlan cfg, isPmicWrite cfg isIdReg c = false := by
    simp only [forall_mem_boardPlan, identifySeq, gpioOutHigh, maskedConstWrite, isPmicWrite]
    simpa using h.noIdReg
  refine firstBad_map_some fun i c hc => ?_
  simp [hc, hall c (List.mem_of_getElem? hc)]

theorem chkBusPins_boardPlan (h : BoardConstrained cfg) : chkBusPins cfg ((boardPlan cfg).map some) = none :=
  if_pos h.i2cPins

/-! ## The order of the rails and the clocks (R208, R209) -/

/-- Registers of two lists with no number in common are in one list only. -/
theorem any_reg_of_disjoint {l m : List (Byte × Byte)}
    (h : ∀ a ∈ l.map (fun p => p.1), ∀ b ∈ m.map (fun p => p.1), a ≠ b) :
    (∀ p ∈ l, m.any (fun q => q.1 == p.1) = false) ∧ ∀ p ∈ m, l.any (fun q => q.1 == p.1) = false := by
  simp only [List.forall_mem_map] at h
  refine ⟨fun p hp => ?_, fun p hp => ?_⟩
  · exact List.any_eq_false.2 fun q hq => by simpa using (h p hp q hq).symm
  · exact List.any_eq_false.2 fun q hq => by simpa using h q hq p hp

theorem chkRegulatorOrder_boardPlan (h : BoardConstrained cfg) :
    chkRegulatorOrder cfg ((boardPlan cfg).map some) = none := by
  have hregs := h.regs
  simp only [List.map_append, List.nodup_append, List.mem_append, or_imp, forall_and] at hregs
  obtain ⟨⟨-, -, htrimEnable⟩, -, htrimConfig, henableConfig⟩ := hregs
  obtain ⟨htrim, henable⟩ := any_reg_of_disjoint htrimEnable
  obtain ⟨htrim', hconfig⟩ := any_reg_of_disjoint htrimConfig
  obtain ⟨henable', hconfig'⟩ := any_reg_of_disjoint henableConfig
  refine firstBad_eq_none.2 fun i _ => Bool.or_eq_false_iff.2 ⟨?_, ?_⟩
  · rw [show boardPlan cfg = (identified cfg ++ regWrites cfg cfg.trim.toList)
      ++ (regWrites cfg cfg.enable.toList ++ regWrites cfg cfg.swcfg.toList ++ afterRails cfg) by
        simp [boardPlan_eq, regulatorWrites]]
    refine isAt_and_hasBefore_append ?_ ?_ le_rfl <;> simp only [List.forall_mem_append, isPmicWrite_regWrites]
    · exact ⟨isPmicWrite_identified _, htrim⟩
    · exact ⟨⟨henable, hconfig⟩, isPmicWrite_afterRails _⟩
  · rw [show boardPlan cfg = (identified cfg ++ regWrites cfg cfg.trim.toList ++ regWrites cfg cfg.enable.toList)
      ++ (regWrites cfg cfg.swcfg.toList ++ afterRails cfg) by simp [boardPlan_eq, regulatorWrites]]
    refine isAt_and_hasBefore_append ?_ ?_ le_rfl <;> simp only [List.forall_mem_append, isPmicWrite_regWrites]
    · exact ⟨⟨isPmicWrite_identified _, htrim'⟩, henable'⟩
    · exact ⟨hconfig', isPmicWrite_afterRails _⟩

theorem chkRailsBeforeClocks_boardPlan : chkRailsBeforeClocks cfg ((boardPlan cfg).map some) = none := by
  refine firstBad_eq_none.2 fun i _ => Bool.or_eq_false_iff.2 ⟨?_, ?_⟩
  · rw [boardPlan_eq]
    refine isAt_and_hasBefore_append (fun c hc => isClockWrite_of_rail (isRailCommand_rails c hc)) (fun c hc => ?_)
      (Nat.le_succ i)
    have hrail := isRailCommand_afterRails c hc
    rw [isDomset_of_not_rail hrail, isPmicWrite_of_not_rail _ hrail, Bool.or_false]
  · rw [show boardPlan cfg = domainSets cfg
      ++ (identifySeq cfg.pmicAddr pmicExpectedName ++ regulatorWrites cfg ++ afterRails cfg) by
        simp [boardPlan_eq, identified]]
    refine isAt_and_hasBefore_append ?_ ?_ (Nat.le_succ i)
    · simp only [domainSets, List.forall_mem_map]
      simp [isBusCommand]
    · simp only [identifySeq, regulatorWrites, regWrites, List.forall_mem_append, List.forall_mem_map, List.forall_mem_cons]
      simpa [isDomset] using fun c hc => isDomset_of_not_rail (isRailCommand_afterRails c hc)

/-! ## Lanes, pin groups and clock requests (R207, R210) -/

/-- Up to the last LANESEL the only groups are those that feed no lane. -/
theorem lanesOf_before_pcieGroups (h : BoardConstrained cfg) {g : Byte}
    (hg : .pingrp g ∈ identified cfg ++ regulatorWrites cfg ++ clocksAndLanes cfg) : lanesOf cfg g = [] := by
  obtain hg | hg := List.mem_append.1 hg
  · exact absurd (isRailCommand_rails _ hg) nofun
  · have hg : g = groupSd ∨ g = groupEmmc := by simpa [clocksAndLanes, maskedConstWrite] using hg
    obtain rfl | rfl := hg
    · exact h.lanesSd
    · exact h.lanesEmmc

/-- After it the only groups are the two that feed lane 2. -/
theorem lanesOf_pcieGroups (h : BoardConstrained cfg) {g : Byte}
    (hg : .pingrp g ∈ pcieGroups ++ clockRequests cfg ++ [.endPlan]) : lanesOf cfg g = [2] := by
  have hg : g = groupPcie2 ∨ g = groupPcie3x2 := by
    simpa [pcieGroups, clockRequests, gpioOutHigh, maskedConstWrite] using hg
  obtain rfl | rfl := hg
  · exact h.lanesPcie2
  · exact h.lanesPcie3x2

theorem chkLaneBeforePins_boardPlan (h : BoardConstrained cfg) :
    chkLaneBeforePins cfg ((boardPlan cfg).map some) = none := by
  rw [show boardPlan cfg = (identified cfg ++ regulatorWrites cfg ++ clocksAndLanes cfg)
    ++ (pcieGroups ++ clockRequests cfg ++ [.endPlan]) by simp [boardPlan_eq, afterRails]]
  refine firstBad_map_some fun i c hc => ?_
  rw [commandAt_map_some, hc]
  cases c with
  | pingrp g =>
    obtain ⟨-, hg⟩ | ⟨hi, hg⟩ := getElem?_append_cases hc
    · simp [lanesOf_before_pcieGroups h hg]
    · have hlane := hasBefore_append (b := pcieGroups ++ clockRequests cfg ++ [.endPlan]) (g := isLaneselOf 2) hi
        ⟨.lanesel 2 cfg.pcieLaneMode, by simp [clocksAndLanes], rfl⟩
      simp only [lanesOf_pcieGroups h hg, List.any_cons, hlane]
      rfl
  | _ => rfl

/-- Among the clock requests every GPIOWR follows a GPIODIR of its pin to Out. -/
theorem gpiodir_before_gpiowr {k : Nat} {b p : Byte} {l : PinLevel}
    (h : (clockRequests cfg ++ [.endPlan])[k]? = some (.gpiowr b p l)) :
    ∃ j, k = j + 1 ∧ (clockRequests cfg ++ [.endPlan])[j]? = some (.gpiodir b p .output) := by
  simp only [clockRequests, gpioOutHigh, List.cons_append, List.nil_append] at h ⊢
  match k with
  | 0 | 2 | 4 | 5 => simp [maskedConstWrite] at h
  | 1 | 3 => simp_all
  | n + 6 => simp at h

theorem chkGpioOrder_boardPlan : chkGpioOrder cfg ((boardPlan cfg).map some) = none := by
  rw [show boardPlan cfg = (identified cfg ++ regulatorWrites cfg ++ (clocksAndLanes cfg ++ pcieGroups))
    ++ (clockRequests cfg ++ [.endPlan]) by simp [boardPlan_eq, afterRails]]
  have hbefore : ∀ c ∈ identified cfg ++ regulatorWrites cfg ++ (clocksAndLanes cfg ++ pcieGroups), isGpio c = false := by
    refine List.forall_mem_append.2 ⟨fun c hc => isGpio_of_rail (isRailCommand_rails c hc), ?_⟩
    simp only [clocksAndLanes, pcieGroups, maskedConstWrite, List.forall_mem_append, List.forall_mem_map, List.forall_mem_cons]
    simp [isGpio]
  generalize identified cfg ++ regulatorWrites cfg ++ (clocksAndLanes cfg ++ pcieGroups) = before at hbefore
  refine firstBad_map_some fun i c hc => Bool.or_eq_false_iff.2 ⟨?_, ?_⟩
  · rw [commandAt_map_some, hc]
    cases c with
    | gpiowr b p l =>
      obtain ⟨-, hmem⟩ | ⟨hi, -⟩ := getElem?_append_cases hc
      · exact absurd (hbefore _ hmem) nofun
      · obtain ⟨k, rfl⟩ := Nat.exists_eq_add_of_le hi
        rw [List.getElem?_append_right hi, Nat.add_sub_cancel_left] at hc
        obtain ⟨j, rfl, hj⟩ := gpiodir_before_gpiowr hc
        have hprev := (commandAt_append_right before (clockRequests cfg ++ [.endPlan]) j).trans hj
        simp only [← Nat.add_assoc, Nat.add_sub_cancel, hprev]
        simp
    | _ => rfl
  · refine isAt_and_hasFrom_append (fun c hc => isClkReqGpio_of_not_gpio (hbefore c hc)) ?_
    simp only [clockRequests, gpioOutHigh, maskedConstWrite, List.forall_mem_append, List.forall_mem_cons]
    simp [isPingrpOf]

/-! ## The identification and the one-shot rules (R211, R212) -/

theorem not_mem_identifySeq_of_not_rail {c : Instr} (h : isRailCommand c = false) (dev : BitVec 7) (name : BitVec 12) :
    c ∉ identifySeq dev name := by
  cases c with
  | busrd | idchk => cases h
  | _ => simp [identifySeq]

theorem not_mem_identifySeq_domainSets (dev : BitVec 7) (name : BitVec 12) :
    ∀ c ∈ domainSets cfg, c ∉ identifySeq dev name := by
  simp only [domainSets, List.forall_mem_map]
  simp [identifySeq]

theorem not_mem_identifySeq_regulatorWrites (dev : BitVec 7) (name : BitVec 12) :
    ∀ c ∈ regulatorWrites cfg, c ∉ identifySeq dev name := by
  simp only [regulatorWrites, regWrites, List.forall_mem_append, List.forall_mem_map]
  simp [identifySeq]

/-- The identification occurs in one way by the end of it. -/
theorem countSeq_identified (cfg : Params) :
    countSeq (identifySeq cfg.pmicAddr pmicExpectedName) ((identified cfg).map some) = 1 := by
  have h := countSeq_identifySeq (not_mem_identifySeq_domainSets (cfg := cfg) cfg.pmicAddr pmicExpectedName) (b := []) nofun
  rwa [List.append_nil] at h

/-- And in one way in the whole plan. -/
theorem countSeq_boardPlan (cfg : Params) :
    countSeq (identifySeq cfg.pmicAddr pmicExpectedName) ((boardPlan cfg).map some) = 1 := by
  rw [boardPlan_eq, List.append_assoc]
  refine countSeq_identifySeq (not_mem_identifySeq_domainSets _ _) (List.forall_mem_append.2
    ⟨not_mem_identifySeq_regulatorWrites _ _, fun c hc => ?_⟩)
  exact not_mem_identifySeq_of_not_rail (isRailCommand_afterRails c hc) _ _

theorem chkIdentifyFirst_boardPlan : chkIdentifyFirst cfg ((boardPlan cfg).map some) = none := by
  rw [boardPlan_eq, List.append_assoc]
  refine firstBad_map_some fun i c hc => ?_
  obtain ⟨-, hmem⟩ | ⟨hi, -⟩ := getElem?_append_cases hc
  · rw [isAt_map_some, hc, Option.any_some, isPmicWrite_identified _ c hmem, Bool.false_and]
  · have hprefix : (identified cfg).map some
        <+: ((identified cfg ++ (regulatorWrites cfg ++ afterRails cfg)).map some).take i :=
      List.prefix_take_iff.2 ⟨(List.prefix_append _ _).map some, by rwa [List.length_map]⟩
    have hcount := countSeq_le_of_prefix (identifySeq cfg.pmicAddr pmicExpectedName) hprefix
    rw [countSeq_identified] at hcount
    rw [beq_eq_false_iff_ne.2 (Nat.one_le_iff_ne_zero.1 hcount), Bool.and_false]

/-- The command `b` has the lane, the domain or the regulator's register of `c` (R212). -/
def sameTarget (cfg : Params) (c b : Instr) : Bool :=
  match c with
  | .lanesel l _ => isLaneselOf l b
  | .domset d _ => isDomsetOf d b
  | .buswr _ reg _ => isPmicWrite cfg (fun r => r == reg) b
  | _ => false

/-- A rail command and another command have no target in common. -/
theorem sameTarget_of_rail {b c : Instr} (hb : isRailCommand b = true) (hc : isRailCommand c = false) :
    sameTarget cfg c b = false := by
  cases c with
  | domset | buswr => cases hc
  | lanesel =>
    cases b with
    | lanesel => cases hb
    | _ => rfl
  | _ => rfl

/-- Each domain is set once (R217). -/
theorem pairwise_sameTarget_identified (h : BoardConstrained cfg) :
    (identified cfg).Pairwise fun b c => sameTarget cfg c b = false := by
  have hdomains := h.domains
  rw [List.nodup_iff_pairwise_ne, List.pairwise_map] at hdomains
  rw [identified, domainSets, List.pairwise_append, List.pairwise_map]
  refine ⟨hdomains.imp beq_eq_false_iff_ne.2, ?_, fun b _ => ?_⟩ <;> simp [identifySeq, sameTarget]

/-- Each register of the regulator is written once (R217). -/
theorem pairwise_sameTarget_regulatorWrites (h : BoardConstrained cfg) :
    (regulatorWrites cfg).Pairwise fun b c => sameTarget cfg c b = false := by
  have hregs := h.regs
  rw [List.nodup_iff_pairwise_ne, List.pairwise_map] at hregs
  rw [regulatorWrites_eq_map, List.pairwise_map]
  exact hregs.imp fun hne => by simpa [sameTarget, isPmicWrite] using hne

/-- Each of the lanes 0, 1 and 2 is selected once (R170). -/
theorem pairwise_sameTarget_afterRails : (afterRails cfg).Pairwise fun b c => sameTarget cfg c b = false := by
  simp only [afterRails, clocksAndLanes, pcieGroups, clockRequests, gpioOutHigh, maskedConstWrite, List.pairwise_append,
    List.pairwise_map, List.forall_mem_append, List.forall_mem_map, List.forall_mem_cons]
  simp [sameTarget, isLaneselOf, List.pairwise_of_forall]

theorem pairwise_sameTarget_boardPlan (h : BoardConstrained cfg) :
    (boardPlan cfg).Pairwise fun b c => sameTarget cfg c b = false := by
  rw [boardPlan_eq, List.pairwise_append, List.pairwise_append]
  refine ⟨⟨pairwise_sameTarget_identified h, pairwise_sameTarget_regulatorWrites h, fun b hb c hc => ?_⟩,
    pairwise_sameTarget_afterRails,
    fun b hb c hc => sameTarget_of_rail (isRailCommand_rails b hb) (isRailCommand_afterRails c hc)⟩
  rw [regulatorWrites_eq_map, List.mem_map] at hc
  obtain ⟨p, -, rfl⟩ := hc
  exact isPmicWrite_identified _ b hb

theorem chkOnce_boardPlan (h : BoardConstrained cfg) : chkOnce cfg ((boardPlan cfg).map some) = none := by
  refine firstBad_eq_none.2 fun i _ => Bool.or_eq_false_iff.2 ⟨Bool.or_eq_false_iff.2 ⟨?_, ?_⟩, ?_⟩
  · rw [commandAt_map_some]
    cases hc : (boardPlan cfg)[i]? with
    | none => rfl
    | some c =>
      have hbefore := hasBefore_of_pairwise (pairwise_sameTarget_boardPlan h) hc
      cases c with
      | lanesel | domset => exact hbefore
      | buswr => exact Bool.and_eq_false_imp.2 fun _ => hbefore
      | _ => rfl
  · have hcount := countSeq_le_of_prefix (identifySeq cfg.pmicAddr pmicExpectedName)
      (List.take_prefix (i + 1) ((boardPlan cfg).map some))
    rw [countSeq_boardPlan] at hcount
    exact decide_eq_false (by omega)
  · rw [countSeq_boardPlan]
    exact Bool.and_false _

/-! ## CHK_WELLFORMED (R215) -/

/-- Where END ends a plan and stands nowhere else in it, it stands at the last pc alone. -/
theorem eq_endPlan_iff_last {init : List Instr} {i : Nat} {c : Instr} (hinit : Instr.endPlan ∉ init)
    (hc : (init ++ [.endPlan])[i]? = some c) : c = .endPlan ↔ i + 1 = (init ++ [Instr.endPlan]).length := by
  rw [List.length_append, List.length_singleton]
  obtain ⟨hi, hmem⟩ | ⟨hi, hmem⟩ := getElem?_append_cases hc
  · exact iff_of_false (fun e => hinit (e ▸ hmem)) (by omega)
  · obtain ⟨hlt, -⟩ := List.getElem?_eq_some_iff.1 hc
    rw [List.length_append, List.length_singleton] at hlt
    exact iff_of_true (List.mem_singleton.1 hmem) (by omega)

theorem commandInRange_boardPlan (hrange : paramsInRange cfg = true) (h : BoardConstrained cfg) :
    ∀ c ∈ boardPlan cfg, commandInRange cfg c = true := by
  have hlanes : 3 ≤ cfg.numLanes := by
    simp only [paramsInRange, Bool.and_eq_true, decide_eq_true_eq] at hrange
    omega
  rw [forall_mem_boardPlan]
  refine ⟨fun _ _ => rfl, ?_, fun _ _ => rfl, fun _ _ => rfl, fun _ _ => rfl, ?_, h.groups, ?_, rfl⟩
  · simp [identifySeq, commandInRange]
  · simp [commandInRange]
    omega
  · simp [gpioOutHigh, commandInRange, h.clkReqA, h.clkReqB]

/-- The board plan before its END. -/
def boardInit (cfg : Params) : List Instr :=
  identified cfg ++ regulatorWrites cfg ++ (clocksAndLanes cfg ++ pcieGroups ++ clockRequests cfg)

theorem boardPlan_eq_init (cfg : Params) : boardPlan cfg = boardInit cfg ++ [.endPlan] := by
  simp [boardPlan_eq, boardInit, afterRails]

theorem endPlan_not_mem_init (cfg : Params) : Instr.endPlan ∉ boardInit cfg := by
  refine List.not_mem_append (fun h => absurd (isRailCommand_rails _ h) nofun) ?_
  simp [clocksAndLanes, pcieGroups, clockRequests, gpioOutHigh, maskedConstWrite]

theorem chkWellformed_boardPlan (hrange : paramsInRange cfg = true) (h : BoardConstrained cfg) :
    chkWellformed cfg ((boardPlan cfg).map some) = none := by
  have hlen := length_boardPlan cfg
  rw [chkWellformed, if_neg (by simp [hlen])]
  refine firstBad_map_some fun i c hc => ?_
  have hi : i < 40 := by
    obtain ⟨hi, -⟩ := List.getElem?_eq_some_iff.1 hc
    omega
  have hin := commandInRange_boardPlan hrange h c (List.mem_of_getElem? hc)
  have hend : c = .endPlan ↔ i + 1 = 40 := by
    rw [← hlen]
    rw [boardPlan_eq_init] at hc ⊢
    exact eq_endPlan_iff_last (endPlan_not_mem_init cfg) hc
  have hlast : (c == .endPlan) = (i + 1 == 40) := by rw [Bool.eq_iff_iff, beq_iff_eq, beq_iff_eq, hend]
  have hshort : ¬ maxPlanLen ≤ i := by unfold maxPlanLen; omega
  rw [commandAt_map_some, hc, List.length_map, hlen]
  simp only [hin, hlast, hshort]
  simp

/-! ## Admission (R217) -/

theorem admission_boardPlan (hrange : paramsInRange cfg = true) (h : BoardConstrained cfg) :
    admission cfg ((boardPlan cfg).map some) = none :=
  admission_eq_none.2 ⟨chkLaneBeforePins_boardPlan h, chkRegulatorOrder_boardPlan h, chkRailsBeforeClocks_boardPlan,
    chkGpioOrder_boardPlan, chkIdentifyFirst_boardPlan, chkOnce_boardPlan h, chkMwrTarget_boardPlan h,
    chkIdReadonly_boardPlan h, chkWellformed_boardPlan hrange h, chkBusPins_boardPlan h⟩

/-- Every command of the board plan has an encoding (R88, R93). -/
theorem wf_boardPlan (hrange : paramsInRange cfg = true) : ∀ c ∈ boardPlan cfg, c.wf = true := by
  have hmode : LaneMode.legal cfg.pcieLaneMode = true := by
    simp only [paramsInRange, Bool.and_eq_true, Bool.or_eq_true, beq_iff_eq] at hrange
    obtain ⟨-, hmode | hmode⟩ := hrange <;> rw [hmode] <;> decide
  rw [forall_mem_boardPlan]
  refine ⟨fun _ _ => rfl, ?_, fun _ _ => rfl, fun _ _ => rfl, fun _ _ => rfl, ?_, fun _ _ => rfl, ?_, rfl⟩
  · simp [identifySeq, Instr.wf]
  · simpa [Instr.wf, hmode] using by decide
  · simp [gpioOutHigh, Instr.wf]

end Sys2Proof.Machine
end

section
/-! The statements of 70_reset_and_hazards.md settled: the runs of an admitted plan, that the board plan is one, the refusal of any
other plan, and the reset state. -/

namespace Sys2Proof.Safety

open Sys2Proof.Machine

/-! ## O56: the runs of an admitted plan -/

/-- Settles O56: at a pc of an admitted plan the command decodes and is sound, and one that is not END is not the last. -/
theorem admittedPlanRaisesNoStaticFault : Obligations.AdmittedPlanRaisesNoStaticFault := by
  rintro s t ⟨hadmitted, hfresh, hinPlan⟩ h
  obtain ⟨hrom, hlen, hcfg⟩ := configurationIsImmutable s t h
  have hadmitted' : t.admitted = true := (admitted_congr hrom hlen hcfg).trans hadmitted
  suffices hrun : (t.st = .run → t.pc < t.planLen) ∧ (t.st = .doneFail → t.cause ≠ 5 ∧ t.cause ≠ 6 ∧ t.cause ≠ 7) from
    hrun.imp_left fun hpc => ⟨hadmitted', stepKeepsIdleFresh s t hfresh h, hpc⟩
  obtain ⟨rest, -, ⟨-, rfl⟩ | ⟨x, -, rfl⟩ | ⟨-, hidle, -, rfl⟩ | ⟨-, hrun, u, rfl, hfetch⟩⟩ := step_cases h
  · exact ⟨nofun, nofun⟩
  · exact ⟨nofun, nofun⟩
  · obtain ⟨-, hpc, -⟩ := hfresh hidle
    refine ⟨fun _ => ?_, nofun⟩
    rw [BitVec.lt_def, show State.pc _ = 0 from hpc]
    exact planLen_pos_of_admitted hadmitted'
  · have hpc := hinPlan hrun
    obtain ⟨i, hi, hsound, hend⟩ := command_of_admitted hadmitted hpc
    obtain ⟨hover, -⟩ | ⟨-, ⟨r, hr⟩, -⟩ | ⟨-, j, hj, hexec⟩ := hfetch
    · exact absurd hpc hover
    · exact absurd (hi.symm.trans hr) nofun
    · obtain rfl : i = j := Except.ok.inj (hi.symm.trans hj)
      refine ⟨fun ht => hlen ▸ (Effect.of_exec hexec).pc_lt_of_run hpc hend ht, fun ht => ?_⟩
      obtain ⟨c, hc, hcause⟩ := exec_fault_of_sound (s := { s with host := rest }) hsound (by simp [hrun]) hexec ht
      exact hcause ▸ Cause.code_of_not_static hc

/-! ## O60: the board plan -/

/-- Settles O60: the plan is read back from the ROM as itself, and passes the ten checks one by one. -/
theorem boardPlanIsAdmitted : Obligations.BoardPlanIsAdmitted := by
  intro s hrange hconstraints
  have hlen := length_boardPlan s.cfg
  obtain ⟨t, hload, htext, htlen⟩ := (planRomHoldsTheLoadedPlan s (boardPlan s.cfg)).1 (by omega) (wf_boardPlan hrange)
  obtain ⟨-, ht⟩ | ⟨-, ht⟩ := loadPlan_cases (boardPlan s.cfg) s <;> rw [ht] at hload
  · have hcfg : t.cfg = s.cfg := by cases hload; rfl
    refine ⟨t, ht.trans hload, BitVec.eq_of_toNat_eq (htlen.trans hlen), ?_⟩
    rw [admitted_iff, htext, hcfg]
    exact admission_boardPlan hrange (boardConstrained_of_boardConstraints hconstraints)
  · cases hload

/-! ## O57: the refusal -/

/-- Settles O57: the refusal is the first answer of the ten checks. -/
theorem unadmittedPlanIsRefusedARun : Obligations.UnadmittedPlanIsRefusedARun := by
  intro s
  refine ⟨?_, fun h => ?_, fun h => ⟨_, launchRun_of_admitted h, rfl⟩⟩
  · rw [← Bool.not_eq_true, admitted_iff, admission_eq_none]
    simp only [not_and_or, ne_eq]
  · obtain ⟨check, pc, hrefusal⟩ := (admitted_eq_false_iff s).1 h
    refine ⟨check, pc, launchRun_of_refused hrefusal, ?_⟩
    have hanswer := checkAnswer_of_admission hrefusal
    cases check <;> exact hanswer

/-! ## O53: the reset state -/

/-- Settles O53: the block's values by evaluation, the mirror's invariants because nothing is listed. -/
theorem invariantsHoldAtReset : Obligations.InvariantsHoldAtReset := by
  have hblock : BlockAtReset State.reset := ⟨rfl, rfl, rfl, rfl, rfl, rfl, rfl, rfl, rfl, rfl⟩
  refine ⟨⟨hblock, ⟨rfl, rfl, rfl, rfl, rfl, wf_reset_planRom⟩, rfl⟩, ⟨nofun, nofun, nofun, nofun, nofun⟩,
    ⟨nofun, fun _ => rfl⟩, fun _ => hblock, Nat.zero_le _, .of_empty rfl rfl rfl, .of_empty rfl rfl rfl,
    ⟨by decide +kernel, fun _ => hblock, nofun⟩, by decide +kernel⟩

end Sys2Proof.Safety
end

section
/-! The canonical form: a table in it is determined by what it reads, and a command keeps every table in it (20_memory.md section
1, 10_state.md section 4). -/

namespace Sys2Proof.Machine

/-! ## What a canonical table reads -/

section
variable {α : Type} [DecidableEq α] {d : α} {lo : Option Nat} {m n : List (Nat × α)} {i j k : Nat} {u v : α}

theorem sparseAbove_cons :
    sparseAbove d lo ((j, v) :: m) = true ↔ (∀ l ∈ lo, l < j) ∧ v ≠ d ∧ sparseAbove d (some j) m = true := by
  simp only [sparseAbove, Bool.and_eq_true, Option.all_eq_true, decide_eq_true_eq, and_assoc, Option.mem_def]

omit [DecidableEq α] in
theorem sparseGet_cons_self : sparseGet d ((j, v) :: m) j = v := if_pos rfl

omit [DecidableEq α] in
theorem sparseGet_cons_ne (h : k ≠ j) : sparseGet d ((j, v) :: m) k = sparseGet d m k := if_neg h

theorem sparseGet_of_le_bound (h : sparseAbove d (some i) m = true) (hk : k ≤ i) : sparseGet d m k = d := by
  induction m generalizing i with
  | nil => rfl
  | cons e m ih =>
    obtain ⟨j, v⟩ := e
    obtain ⟨hlt, -, htail⟩ := sparseAbove_cons.1 h
    have hij : i < j := hlt i rfl
    rw [sparseGet_cons_ne (by omega), ih htail (by omega)]

/-- The first key of a canonical table is not below that of another which reads the same there. -/
theorem head_le_of_sparseGet_eq (hm : sparseAbove d lo ((i, u) :: m) = true) (hn : sparseAbove d lo ((j, v) :: n) = true)
    (h : sparseGet d ((i, u) :: m) i = sparseGet d ((j, v) :: n) i) : j ≤ i := by
  obtain ⟨-, hu, -⟩ := sparseAbove_cons.1 hm
  obtain ⟨-, hv, htail⟩ := sparseAbove_cons.1 hn
  by_contra hlt
  have habove : sparseAbove d (some i) ((j, v) :: n) = true :=
    sparseAbove_cons.2 ⟨fun l hl => by cases hl; omega, hv, htail⟩
  rw [sparseGet_cons_self, sparseGet_of_le_bound habove le_rfl] at h
  exact hu h

theorem ne_sparseGet_of_cons (h : sparseAbove d lo ((j, v) :: m) = true) : sparseGet d ((j, v) :: m) j ≠ d := by
  rw [sparseGet_cons_self]
  exact (sparseAbove_cons.1 h).2.1

/-- Extensionality of canonical tables: their first keys agree, with them their first values, and then their tails. -/
theorem sparseAbove_ext (hm : sparseAbove d lo m = true) (hn : sparseAbove d lo n = true)
    (h : ∀ k, sparseGet d m k = sparseGet d n k) : m = n := by
  induction m generalizing n lo with
  | nil =>
    cases n with
    | nil => rfl
    | cons f n => exact absurd (h f.1).symm (ne_sparseGet_of_cons hn)
  | cons e m ih =>
    obtain ⟨i, u⟩ := e
    cases n with
    | nil => exact absurd (h i) (ne_sparseGet_of_cons hm)
    | cons f n =>
      obtain ⟨j, v⟩ := f
      obtain rfl : i = j := le_antisymm (head_le_of_sparseGet_eq hn hm (h j).symm) (head_le_of_sparseGet_eq hm hn (h i))
      obtain rfl : u = v := by simpa only [sparseGet_cons_self] using h i
      obtain ⟨-, -, hm⟩ := sparseAbove_cons.1 hm
      obtain ⟨-, -, hn⟩ := sparseAbove_cons.1 hn
      have htail : ∀ k, sparseGet d m k = sparseGet d n k := by
        intro k
        by_cases hk : k ≤ i
        · rw [sparseGet_of_le_bound hm hk, sparseGet_of_le_bound hn hk]
        · have hne : k ≠ i := by omega
          simpa only [sparseGet_cons_ne hne] using h k
      rw [ih hm hn htail]

end

/-! ## A command keeps each table of the mirror canonical -/

section
variable {s t : State} {i : Instr}

theorem Effect.wf_mem (h : Effect s i t) (hs : Memory.wf s.mem = true) : Memory.wf t.mem = true := by
  cases h with
  | mwr a => exact wf_memWrite a _ hs
  | wr32 a d => exact wf_memWrite a d hs
  | _ => simpa using hs

theorem Effect.wf_pmic (h : Effect s i t) (hs : Memory.wf s.pmic = true) : Memory.wf t.pmic = true := by
  cases h with
  | buswrOk dev r d => exact wf_pmicWritten dev r d hs
  | buswrErr dev r _ b => exact wf_pmicDrawn dev r b hs
  | _ => simpa using hs

theorem Effect.wf_pins (h : Effect s i t) (hs : sparseWf Config.unlistedPin s.pins = true) :
    sparseWf Config.unlistedPin t.pins = true := by
  cases h with
  | pingrp _ ds => exact wf_applyDescs ds hs
  | gpiodir b p => exact wf_setPin b p _ hs
  | gpiowr b p => exact wf_setPin b p _ hs
  | _ => simpa using hs

theorem Effect.wf_laneMode (h : Effect s i t) (hs : sparseWf Config.unlistedMode s.laneMode = true) :
    sparseWf Config.unlistedMode t.laneMode = true := by
  cases h with
  | laneselOk l m => exact wf_setMode l m hs
  | laneselErr l => exact wf_setMode l _ hs
  | _ => simpa using hs

theorem Effect.wf_domLevel (h : Effect s i t) (hs : sparseWf Config.unlistedLevel s.domLevel = true) :
    sparseWf Config.unlistedLevel t.domLevel = true := by
  cases h with
  | domsetOk d v => exact wf_setLevel d v hs
  | domsetErr d => exact wf_setLevel d _ hs
  | _ => simpa using hs

end

end Sys2Proof.Machine
end

section
/-! The statements on the canonical form settled: every step keeps it, and in it equal contents are equal data. -/

namespace Sys2Proof.Safety

open Sys2Proof.Machine

/-! ## O46: every step keeps the form -/

/-- A launch makes each mirror's table anew, in its canonical form; the plan ROM stays (R202). -/
theorem Canonical.launch {s : State} (x : ExternalDraw) (hrom : Memory.wf s.planRom = true) : Canonical (s.launch x) :=
  ⟨wf_launch_mem x s, wf_launch_pmic x s, wf_launch_pins x s, wf_launch_laneMode x s, wf_launch_domLevel x s, hrom⟩

theorem Canonical.effect {s t : State} {i : Instr} (h : Effect s i t) (hs : Canonical s) : Canonical t := by
  obtain ⟨hmem, hpmic, hpins, hlane, hdom, hrom⟩ := hs
  obtain ⟨hrom', -, -⟩ := h.config
  exact ⟨h.wf_mem hmem, h.wf_pmic hpmic, h.wf_pins hpins, h.wf_laneMode hlane, h.wf_domLevel hdom, hrom' ▸ hrom⟩

theorem canonical_keptByStep : KeptByStep Canonical where
  host _ h := h
  reset h := h
  launch x h := by
    obtain ⟨-, -, -, -, -, hrom⟩ := h
    exact .launch x hrom
  start _ h := h
  raise _ _ h := h
  effect _ _ he h := .effect he h

/-- Settles O46: a command writes its table by `sparseSet`, which keeps the form (the model's own, log 5), and a launch builds
each table in it. -/
theorem stepKeepsCanonicalTables : Obligations.StepKeepsCanonicalTables :=
  fun _ _ hs h => canonical_keptByStep.step h hs

/-! ## O54: equal contents are equal data -/

/-- Settles O54: extensionality of tables above any bound, at no bound. -/
theorem canonicalTablesAreEqualData : Obligations.CanonicalTablesAreEqualData := by
  intro α _ d m n hm hn h
  exact sparseAbove_ext hm hn h

end Sys2Proof.Safety
end
